-- ==== Sys2Proof/Word.lean ====
section
/-! DEFINITION. The plain word types of the block: digits, operation words, lane indices, counts. -/

namespace Sys2Proof

/-- One byte of an output line. -/
abbrev Byte := BitVec 8

/-- The 8-bit operation word (R53). -/
abbrev OpWord := BitVec 8

/-- A lane index, the 4-bit `LANE` field (R6, R53). -/
abbrev LaneIdx := BitVec 4

/-- A step count, `CNTW = 64` bits wide (R5, R17). -/
abbrev Count := BitVec 64

/-- A decimal digit, `0` to `9`: what a digit cell holds (R15, R16). Its 4-bit code is `Digit.code` in
`Machine/Operands.lean`; the codes 10 to 15 are never stored (R52), so the type has no room for them. -/
abbrev Digit := Fin 10

/-- A digit buffer or digit space: cell `0`, the least significant digit, first (R8, R35). -/
abbrev Buffer := List Digit

/-- A line of text, as characters. -/
abbrev Text := List Char

end Sys2Proof
end

