-- ==== Sys2Proof/Config.lean ====
section
/-! DEFINITION. The build parameters (R5) and the values the spec leaves free. -/

namespace Sys2Proof

/-- The build parameters of R5. `F` is derived from `W` (`Config.f`) and `CNTW` is 64 (`Count`), so neither is a field. -/
structure Config where
  /-- `D` (DIGITS), the digits per buffer. -/
  d : Nat
  /-- `W`, the worker (lane) count. -/
  w : Nat
  /-- `BATCH`, the multiplications between two progress reports. -/
  batch : Nat
deriving DecidableEq, Repr

/-- The multiplication factor `F = 2^W` (R5). -/
def Config.f (c : Config) : Nat := 2 ^ c.w

/-- The legal values of R5: anything else "is not a build of this hardware; a model refuses it". -/
def Config.legal (c : Config) : Bool :=
  decide (1 ≤ c.d) && decide (1 ≤ c.batch) && decide (1 ≤ c.w) && decide (c.w ≤ 16)

/-- The reference build `W = 4`, `F = 16` (R5). DESIGN CHOICE (log entry 2), unsafe for a claim about this build alone:
R5 leaves `D` and `BATCH` OPEN, and 4 and 4 are the values of the spec's own examples (R88, R89). -/
def Config.reference : Config := { d := 4, w := 4, batch := 4 }

/-- FREE VALUE (log entry 5): which lane the `n`-th unforced turn of a run goes to is "any one of them" (R85). Nothing
constrains it; the machine reduces it modulo `W`. -/
opaque Config.freeTurn : Nat → Nat

/-- FREE VALUE (log entry 11): the text of the `n`-th diagnostic with these fields "is implementation-defined" (R62). -/
opaque Config.diagText (n : Nat) (cause : BitVec 4) (op : OpWord) (wenv : Option Nat) (w : Nat) : List Byte

end Sys2Proof
end

