-- ==== Sys2Proof/Syntax.lean ====
section
/-! DEFINITION. The operations of the block, one constructor per row of spec/opcode_table.json, and the agents that
perform them. -/

namespace Sys2Proof

/-- The four operations (R2, R54). A lane operand is the 4-bit `LANE` field (R55). -/
inductive Instr where
  /-- CHECK, the start-up worker-count check (R86). -/
  | check
  /-- SEED k, initialise lane `k` (R87). -/
  | seed (k : LaneIdx)
  /-- STEP k, one multiplication step of lane `k` (R88). -/
  | step (k : LaneIdx)
  /-- REPORT k, the progress report of lane `k` (R89). -/
  | report (k : LaneIdx)
deriving DecidableEq, Repr

/-- The agents: the controller and the lanes (R13). -/
inductive Agent where
  | controller
  | lane (k : LaneIdx)
deriving DecidableEq, Repr

/-- The agent an operation names (R65). -/
def Instr.agent : Instr → Agent
  | .check => .controller
  | .seed k => .lane k
  | .step k => .lane k
  | .report k => .lane k

end Sys2Proof
end

