-- ==== Sys2Proof/WellFormed.lean ====
section
/-! DEFINITION. The checks on an operation. -/

namespace Sys2Proof

/-- "SEED, STEP and REPORT are legal for `k < W` only" (R55); CHECK has no operand (R86). -/
def Instr.wellFormed (c : Config) : Instr → Bool
  | .check => true
  | .seed k => decide (k.toNat < c.w)
  | .step k => decide (k.toNat < c.w)
  | .report k => decide (k.toNat < c.w)

end Sys2Proof
end

