-- ==== Sys2Proof/Decode.lean ====
section
/-! DEFINITION. Operation words to operations and back (R53 to R58), and the opcode table's rows. -/

namespace Sys2Proof

/-- `OPC`, bits `[7:4]` of the word (R53). -/
def opcField (w : OpWord) : BitVec 4 := w.extractLsb' 4 4

/-- `LANE`, bits `[3:0]` of the word (R53). -/
def laneField (w : OpWord) : LaneIdx := w.extractLsb' 0 4

/-- `{OPC, LANE}`, the one format of the word (R53). -/
def assembleWord (opc : BitVec 4) (lane : LaneIdx) : OpWord := opc ++ lane

/-- The operation a word's fields spell (R54), whatever the build's `W`; `none` for the reserved words of R56. -/
def decodeFields (w : OpWord) : Option Instr :=
  match (opcField w).toNat with
  | 0 => if (laneField w).toNat = 0 then some .check else none
  | 1 => some (.seed (laneField w))
  | 2 => some (.step (laneField w))
  | 3 => some (.report (laneField w))
  | _ => none

/-- What decoding a word answers (R58): an operation of the build, or the word with the fault it raises. -/
inductive Decoded where
  /-- An operation of this build. -/
  | instr (i : Instr)
  /-- `Illegal(w)`: the word raises ILLEGAL_OP (R56). -/
  | illegal (w : OpWord)
  /-- `BadLane(w)`: the word raises BAD_LANE (R55). -/
  | badLane (w : OpWord)
deriving DecidableEq, Repr

/-- Decoding, "total on any byte" (R58): reserved words first, then the lane check of R55 against the build's `W`. -/
def decode (c : Config) (w : OpWord) : Decoded :=
  match decodeFields w with
  | none => .illegal w
  | some i => if i.wellFormed c then .instr i else .badLane w

/-- "A decoder takes exactly one byte per operation" (R57): the first operation of a sequence of bytes, and the rest. -/
def decodeNext (c : Config) : List Byte → Option (Decoded × List Byte)
  | [] => none
  | w :: rest => some (decode c w, rest)

/-- The word of an operation (R54). -/
def encode : Instr → OpWord
  | .check => assembleWord 0 0
  | .seed k => assembleWord 1 k
  | .step k => assembleWord 2 k
  | .report k => assembleWord 3 k

/-- A row of spec/opcode_table.json: its mnemonic, and the words `w` with `w &&& mask = pattern` are the row's. -/
structure OpRow where
  mnemonic : String
  pattern : OpWord
  mask : OpWord
deriving DecidableEq, Repr

/-- Whether a word is one of the row's. -/
def OpRow.covers (r : OpRow) (w : OpWord) : Bool := w &&& r.mask == r.pattern

/-- The row of CHECK. -/
def rowCheck : OpRow := { mnemonic := "CHECK", pattern := 0x00, mask := 0xFF }

/-- The row of SEED. -/
def rowSeed : OpRow := { mnemonic := "SEED", pattern := 0x10, mask := 0xF0 }

/-- The row of STEP. -/
def rowStep : OpRow := { mnemonic := "STEP", pattern := 0x20, mask := 0xF0 }

/-- The row of REPORT. -/
def rowReport : OpRow := { mnemonic := "REPORT", pattern := 0x30, mask := 0xF0 }

/-- The rows of the opcode table (R54). -/
def opcodeRows : List OpRow := [rowCheck, rowSeed, rowStep, rowReport]

/-- The row of an operation. -/
def Instr.row : Instr → OpRow
  | .check => rowCheck
  | .seed _ => rowSeed
  | .step _ => rowStep
  | .report _ => rowReport

/-- The word that the low `nbits` bits of `w` give: an operation has one 8-bit word (R57). -/
def tableWord (nbits w : Nat) : OpWord := BitVec.ofNat 8 (w % 2 ^ nbits)

/-- The operation the decoder reads from a table word. The table knows no build, so the lane field is read for any lane
(log entry 15): `decodeFields`; `decode` adds the build's lane check. -/
def decodeTableWord (nbits w : Nat) : Option Instr := decodeFields (tableWord nbits w)

end Sys2Proof
end

