-- ==== Sys2Proof/Machine/State.lean ====
section
/-! DEFINITION. The state of the block (10_state.md), the events that reach it from outside, the reasons a step can stop,
and the state after RESET. -/

namespace Sys2Proof.Machine

open Sys2Proof

/-- `CORE_PH`, "a three-valued enumeration" (R23). -/
inductive CorePhase where
  | unchecked
  | run
  | fatal
deriving DecidableEq, Repr

/-- `LPH[k]` (R19). -/
inductive LanePhase where
  | init
  | running
deriving DecidableEq, Repr

/-- The fault causes of R96. -/
inductive FaultCause where
  /-- Code 1: `W_ENV != W` at the start-up check. -/
  | cfgMismatch
  /-- Code 2: a reserved word. -/
  | illegalOp
  /-- Code 3: a lane field `k >= W`. -/
  | badLane
  /-- Code 4: a decoded operation whose guard does not hold. -/
  | outOfSequence
deriving DecidableEq, Repr

/-- The registers of one lane (R15, R17, R19, R20). The lane's identity `ID[k]` is hardwired to its place `k` (R18) and
has no storage: `laneId` in `Machine/Operands.lean`. -/
structure Lane where
  /-- `LPH[k]`. -/
  phase : LanePhase
  /-- `BUF[k]`, exactly `D` cells, the least significant first. -/
  buf : Buffer
  /-- `CNT[k]`. -/
  cnt : Count
  /-- `BPOS[k]`, in `[0, BATCH]`. -/
  bpos : Nat
deriving DecidableEq, Repr

/-- A record of the OUT stream (R28). -/
inductive OutRecord where
  /-- `Match(B)`. -/
  | matched (b : Buffer)
  /-- `Progress(c, k)`. -/
  | progress (c : Count) (k : LaneIdx)
deriving DecidableEq, Repr

/-- A record `Diag(cause, op, wenv, w)` of the DIAG stream (R29, R62). -/
structure DiagRecord where
  cause : BitVec 4
  op : OpWord
  wenv : Option Nat
  w : Nat
deriving DecidableEq, Repr

/-- What reaches the block from outside between two operations (R30, R65, R85). -/
inductive Input where
  /-- The next operation word of a trace given from outside (R65). -/
  | word (w : OpWord)
  /-- The scheduler's choice of the agent with the next autonomous step (R85): while lanes run, lane `n mod W`. -/
  | turn (n : Nat)
  /-- RESET, with the `W_ENV` the host presents for the new run (R27, R112). -/
  | reset (wEnv : Nat)
  /-- STOP (R105). -/
  | stop
deriving DecidableEq, Repr

/-- The state of the block: all that 10_state.md gives it, and the model's own `inputs` and `turns` (log entries 5, 6).
The build parameters are not among it (R5): `machine` in `Machine/Build.lean` takes them as its argument. -/
structure Block where
  /-- `W_ENV` (R27). -/
  wEnv : Nat
  /-- `CORE_PH` (R23). -/
  corePh : CorePhase
  /-- `FAULT_CAUSE` (R24). -/
  faultCause : BitVec 4
  /-- `FAULT_OP` (R25). -/
  faultOp : OpWord
  /-- The lanes `0` to `W - 1` (R109). -/
  lanes : List Lane
  /-- `OUT`, the oldest record first (R28). -/
  out : List OutRecord
  /-- `DIAG`, the oldest record first (R29). -/
  diag : List DiagRecord
  /-- STOP has ended the run (R105). -/
  stopped : Bool
  /-- MODEL's own: the events still to come from outside, the next one first (log entry 6). -/
  inputs : List Input
  /-- MODEL's own: how many free scheduling choices have been drawn (log entry 5). -/
  turns : Nat
deriving DecidableEq, Repr

/-- What the host's interface steps: a block together with the machine's argument, since the interface leaves the machine
no other argument than its state (log entry 1). -/
structure State extends Block where
  /-- The build parameters (R5): the machine's argument. No operation, no event and no RESET writes them (R112). -/
  cfg : Config
deriving DecidableEq, Repr

/-- The block `b` of a machine with the build parameters `c`, as the host's interface steps it. -/
def Block.inBuild (b : Block) (c : Config) : State := { toBlock := b, cfg := c }

/-- Where the machine has no step. -/
inductive Fault where
  /-- Raised by every step and every operation while `CORE_PH = FATAL` and no RESET is presented: "no agent has an enabled
  step" (R100). Safe: the block itself is stuck there. -/
  | halted
  /-- Raised by every step and every operation after STOP and before a RESET: "no operation is performed after it" (R105).
  Safe: the block itself is stuck there. -/
  | stopped
deriving DecidableEq, Repr

/-- What the model gives no meaning to. -/
inductive Refusal where
  /-- Raised by `exec` alone, for an instruction without a meaning. Safe: it stops where the block goes on. -/
  | notModelled (mnemonic : String)
  /-- Raised by every step and every operation when the parameters are "not a build of this hardware; a model refuses it"
  (R5), or the state does not have exactly `W` lanes (R109). Safe: there is no such block. -/
  | notABuild
deriving DecidableEq, Repr

/-- A lane after RESET (R32): INIT; `BUF`, `CNT` and `BPOS` are unspecified there. DESIGN CHOICE (log entry 3), unsafe for
a claim that rests on these values: zero digits, 0 and 0. No operation reads them before SEED. -/
def Lane.reset (c : Config) : Lane :=
  { phase := .init, buf := List.replicate c.d 0, cnt := 0, bpos := 0 }

/-- The state right after RESET of build `c` with `W_ENV` presented by the host (R32, R112, R113), with no event to come. -/
def State.resetOf (c : Config) (wEnv : Nat) : State :=
  { cfg := c, wEnv := wEnv, corePh := .unchecked, faultCause := 0, faultOp := 0x00,
    lanes := List.replicate c.w (Lane.reset c), out := [], diag := [], stopped := false, inputs := [], turns := 0 }

/-- The machine right after reset: the reference build with the `W_ENV` its host must present (R115). DESIGN CHOICE (log
entries 2 and 4), unsafe for a claim about this state alone: `D`, `BATCH` and the host's `W_ENV`. -/
def State.reset : State := State.resetOf Config.reference 4

end Sys2Proof.Machine
end

