-- ==== Sys2Proof/Machine/Operands.lean ====
section
/-! DEFINITION. Operand forms, the value a buffer represents and its packed view, and the codes of the enumerated
registers. -/

namespace Sys2Proof.Machine

open Sys2Proof

/-- The lane operand `k = zext(LANE)` as a number: "neither scaled nor sign-extended" (R55). -/
abbrev laneOperand (k : LaneIdx) : Nat := k.toNat

/-- `ID[k]`: "a read-only 4-bit value hardwired to `k`" (R18). -/
def laneId (k : LaneIdx) : BitVec 4 := k

/-- The digit `v mod 10`. -/
def digitOf (v : Nat) : Digit := ⟨v % 10, Nat.mod_lt v (by decide)⟩

/-- `val(B)`, the sum of `B[i] * 10^i` (R8). -/
def val : Buffer → Nat
  | [] => 0
  | d :: ds => d.val + 10 * val ds

/-- `enc_D(v)`, the buffer with `B[i] = (v div 10^i) mod 10` (R8). -/
def enc (d v : Nat) : Buffer := (List.range d).map fun i => digitOf (v / 10 ^ i)

/-- The 4-bit cell code of a digit (R51). -/
def digitCode (d : Digit) : BitVec 4 := BitVec.ofNat 4 d.val

/-- The digit a cell code stands for; `none` for the codes 10 to 15, which "are never stored" (R52). -/
def digitOfCode (c : BitVec 4) : Option Digit := if h : c.toNat < 10 then some ⟨c.toNat, h⟩ else none

/-- The packed view as a number: digit `i` weighs `16^i` (R37). -/
def packedNat : Buffer → Nat
  | [] => 0
  | d :: ds => d.val + 16 * packedNat ds

/-- The packed view `BUFREG[k]`, `4*D` bits wide, of a buffer of `d` digits (R37). -/
def packed (d : Nat) (b : Buffer) : BitVec (4 * d) := BitVec.ofNat (4 * d) (packedNat b)

/-- A packed buffer from outside: "a model ... refuses one containing such a code" (R52). -/
def unpackNat : Nat → Nat → Option Buffer
  | 0, _ => some []
  | d + 1, v =>
    match digitOfCode (BitVec.ofNat 4 v), unpackNat d (v / 16) with
    | some x, some ds => some (x :: ds)
    | _, _ => none

/-- The buffer of `d` digits whose packed view is `v` (R37), refused where a code is 10 to 15 (R52). -/
def unpack (d : Nat) (v : BitVec (4 * d)) : Option Buffer := unpackNat d v.toNat

/-- The 4-bit cause codes of R96. -/
def FaultCause.code : FaultCause → BitVec 4
  | .cfgMismatch => 1
  | .illegalOp => 2
  | .badLane => 3
  | .outOfSequence => 4

/-- The 2-bit code of `CORE_PH` (R23). -/
def CorePhase.code : CorePhase → BitVec 2
  | .unchecked => 0
  | .run => 1
  | .fatal => 2

/-- The 1-bit code of `LPH[k]` (R19). -/
def LanePhase.code : LanePhase → BitVec 1
  | .init => 0
  | .running => 1

end Sys2Proof.Machine
end

