-- ==== Sys2Proof/Machine/Flags.lean ====
section
/-! DEFINITION. The one flag of the block, the all-even flag `E` (R22, R75). -/

namespace Sys2Proof.Machine

open Sys2Proof

/-- `even(d)`: `d mod 2 = 0` (R8, R75). -/
def even (d : Digit) : Bool := d.val % 2 == 0

/-- `allEven(B)`: the AND of `even` over every position, leading zeros among them (R8, R75, R76). -/
def allEven (b : Buffer) : Bool := b.all even

end Sys2Proof.Machine
end

