-- ==== Sys2Proof/Machine/Multiplier.lean ====
section
/-! DEFINITION. The digit buffer multiplier and all-even detector (40_multiplier.md), the datapath of STEP. -/

namespace Sys2Proof.Machine

open Sys2Proof

/-- The digit cell of the reference build, `16 = 10 + 6` (R67): the new digit and the carry to the next position up. -/
def cell16 (d : Digit) (cin : Nat) : Digit × Nat :=
  let t := 6 * d.val + cin
  (digitOf t, d.val + t / 10)

/-- The digit cell of any build, `F = 10*a + b` (R68). -/
def cell (f : Nat) (d : Digit) (cin : Nat) : Digit × Nat :=
  let t := f % 10 * d.val + cin
  (digitOf t, f / 10 * d.val + t / 10)

/-- What a pass leaves: the new digits `B'`, the carry `C` and the parity accumulator `P` (R71). -/
structure PassResult where
  buf : Buffer
  carry : Nat
  parity : Bool
deriving DecidableEq, Repr

/-- The pass over the digits that remain, least significant first, from carry `c` and parity `p` (R71). -/
def passFrom (f : Nat) : Nat → Bool → Buffer → PassResult
  | c, p, [] => { buf := [], carry := c, parity := p }
  | c, p, d :: ds =>
    let x := cell f d c
    let r := passFrom f x.2 (p && even x.1) ds
    { buf := x.1 :: r.buf, carry := r.carry, parity := r.parity }

/-- `MulPass_F(B)` (R71) with the final carry, which is discarded (R73), still in view. -/
def mulPassCarry (f : Nat) (b : Buffer) : PassResult := passFrom f 0 true b

/-- `MulPass_F(B) = (B', E)` (R71): the final carry is discarded (R73) and `E` is the accumulated parity (R75). -/
def mulPass (f : Nat) (b : Buffer) : Buffer × Bool :=
  ((mulPassCarry f b).buf, (mulPassCarry f b).parity)

/-- `MemRead(k, i)` on a digit space (R9): digit `i`; `none` outside `[0, D-1]`, where no address exists (R34). -/
def digitRead (b : Buffer) (i : Nat) : Option Digit := b[i]?

/-- `MemWrite(k, i, d)` on a digit space (R9); outside `[0, D-1]` there is no cell to write (R34). -/
def digitWrite (b : Buffer) (i : Nat) (d : Digit) : Buffer := b.set i d

/-- The pass run in place, cell `i` read before it is written (R41), for `n` positions from `i` on. STEP uses `mulPass`;
this is the loop the source describes, over `MemRead` and `MemWrite`. -/
def passInPlace (f : Nat) : Nat → Nat → Nat → Bool → Buffer → PassResult
  | 0, _, c, p, b => { buf := b, carry := c, parity := p }
  | n + 1, i, c, p, b =>
    match digitRead b i with
    | none => { buf := b, carry := c, parity := p }
    | some d =>
      let x := cell f d c
      passInPlace f n (i + 1) x.2 (p && even x.1) (digitWrite b i x.1)

/-- The canonical form of a digit space of a build with `d` digits: exactly `d` cells (R15, R16). Each cell holds a
digit by its type. -/
def Memory.wf (d : Nat) (b : Buffer) : Bool := b.length == d

end Sys2Proof.Machine
end

