-- ==== Sys2Proof/Machine/Output.lean ====
section
/-! DEFINITION. The lines of the output streams (R59 to R62). -/

namespace Sys2Proof.Machine

open Sys2Proof

/-- The ASCII code of a digit, `0x30 + d` (R59). -/
def asciiDigit (d : Digit) : Byte := BitVec.ofNat 8 (0x30 + d.val)

/-- The line terminator, the single byte `0x0A` (R59). -/
def lineFeed : Byte := 0x0A

/-- The line of a `Match(B)` record: the digits, most significant first, and the terminator (R36, R59). -/
def matchLine (b : Buffer) : List Byte := b.reverse.map asciiDigit ++ [lineFeed]

/-- The decimal digits of `v`, least significant first, without leading zeros, for `fuel` digits at most. -/
def decDigits : Nat → Nat → Buffer
  | 0, _ => []
  | fuel + 1, v => if v < 10 then [digitOf v] else digitOf v :: decDigits fuel (v / 10)

/-- The decimal digits of `v`, most significant first: a numeral has no more digits than `v` has bits. -/
def decNumeral (v : Nat) : Buffer := (decDigits (v.log2 + 1) v).reverse

/-- `dec(v)`: the minimal decimal numeral, in ASCII (R61). -/
def dec (v : Nat) : List Byte := (decNumeral v).map asciiDigit

/-- The bytes of `"Steps: "` (R60). -/
def stepsText : List Byte := [0x53, 0x74, 0x65, 0x70, 0x73, 0x3A, 0x20]

/-- The bytes of `" from "` (R60). -/
def fromText : List Byte := [0x20, 0x66, 0x72, 0x6F, 0x6D, 0x20]

/-- The line of a `Progress(c, k)` record (R60). -/
def progressLine (c : Count) (k : LaneIdx) : List Byte :=
  stepsText ++ dec c.toNat ++ fromText ++ dec k.toNat ++ [lineFeed]

/-- The line of a record of OUT. -/
def OutRecord.line : OutRecord → List Byte
  | .matched b => matchLine b
  | .progress c k => progressLine c k

/-- The bytes of the OUT stream: whole lines, in the order of the appends (R28, R45). -/
def State.outBytes (s : State) : List Byte := s.out.flatMap OutRecord.line

/-- The text of the `n`-th diagnostic: "any bytes" (R62; 93_implementation_defined.md), a free value (log entry 11). -/
def DiagRecord.text (n : Nat) (r : DiagRecord) : List Byte := Config.diagText n r.cause r.op r.wenv r.w

end Sys2Proof.Machine
end

