-- ==== Sys2Proof/Machine/Ops.lean ====
section
/-! DEFINITION. The named operations over the state: reading and writing a lane, the streams, taking a fault (R98), and
the two shapes an operation has (R10, R81). -/

namespace Sys2Proof.Machine

open Sys2Proof

/-- The parameters are a build (R5) and the state has exactly its `W` lanes (R109). -/
def State.isBuild (s : State) : Bool := s.cfg.legal && (s.lanes.length == s.cfg.w)

/-- No agent has a step: a fault has been raised (R100) or STOP has ended the run (R105). -/
def State.halted (s : State) : Bool := s.stopped || s.corePh == .fatal

/-- Why a halted state has no step. -/
def State.haltReason (s : State) : Fault := if s.stopped then .stopped else .halted

/-- The registers of lane `k` (R9, R109). A state that is a build has a lane for every `k < W`; no operation reads another. -/
def State.lane (s : State) (k : LaneIdx) : Lane := s.lanes.getD (laneOperand k) (Lane.reset s.cfg)

/-- Write the registers of lane `k`. -/
def State.setLane (s : State) (k : LaneIdx) (l : Lane) : State :=
  { s with lanes := s.lanes.set (laneOperand k) l }

/-- `MemRead(k, i)` (R9). -/
def State.memRead (s : State) (k : LaneIdx) (i : Nat) : Option Digit := digitRead (s.lane k).buf i

/-- `MemWrite(k, i, d)` (R9). -/
def State.memWrite (s : State) (k : LaneIdx) (i : Nat) (d : Digit) : State :=
  s.setLane k { s.lane k with buf := digitWrite (s.lane k).buf i d }

/-- `emit OUT(r)` for each record in turn (R9, R28). -/
def State.emit (s : State) (rs : List OutRecord) : State := { s with out := s.out ++ rs }

/-- `raise Fault(cause, op)`, with `wenv` given when the fault is CHECK's: the fault action of R98. -/
def State.raise (s : State) (cause : FaultCause) (op : OpWord) (wenv : Option Nat) : State :=
  { s with
    corePh := .fatal
    faultCause := cause.code
    faultOp := op
    diag := s.diag ++ [{ cause := cause.code, op := op, wenv := wenv, w := s.cfg.w }] }

/-- RESET (R112, R113): every piece of state at its reset value, the build parameters kept, with the `W_ENV` presented for
the new run. `rest` is what still comes from outside; the model's own counter `turns` goes on, so that the new run's
schedule is as free as the last one's (log entry 5). -/
def State.resetRun (s : State) (wEnv : Nat) (rest : List Input) : State :=
  { State.resetOf s.cfg wEnv with inputs := rest, turns := s.turns }

/-- What every operation asks first: that there is a block (R5) and that it is neither stopped (R105) nor FATAL (R81,
R100). -/
def operate (s : State) (body : Host.Outcome State Fault Refusal) : Host.Outcome State Fault Refusal :=
  if !s.isBuild then .refused .notABuild
  else if s.halted then .fault s.haltReason
  else body

/-- An operation of lane `k` (R81, R103): BAD_LANE for a lane the build does not have, OUT_OF_SEQUENCE where the guard
(`CORE_PH = RUN` and `guard`) does not hold, its body otherwise. -/
def laneOperation (i : Instr) (k : LaneIdx) (guard : Bool) (body s : State) : Host.Outcome State Fault Refusal :=
  operate s <|
    if s.cfg.w ≤ laneOperand k then .next (s.raise .badLane (encode i) none)
    else if s.corePh == .run && guard then .next body
    else .next (s.raise .outOfSequence (encode i) none)

end Sys2Proof.Machine
end

