-- ==== Sys2Proof/Machine/Controller.lean ====
section
/-! DEFINITION. The controller's operation: CHECK (R86). -/

namespace Sys2Proof.Machine

open Sys2Proof

/-- CHECK (R86): OUT_OF_SEQUENCE unless `CORE_PH = UNCHECKED`; RUN when `W_ENV = W`; CFG_MISMATCH otherwise. -/
def execCheck (s : State) : Host.Outcome State Fault Refusal :=
  operate s <|
    if s.corePh == .unchecked then
      if s.wEnv = s.cfg.w then .next { s with corePh := .run }
      else .next (s.raise .cfgMismatch (encode .check) (some s.wEnv))
    else .next (s.raise .outOfSequence (encode .check) none)

end Sys2Proof.Machine
end

