-- ==== Sys2Proof/Machine/Worker.lean ====
section
/-! DEFINITION. The lanes' operations: SEED (R87), STEP (R88), REPORT (R89). -/

namespace Sys2Proof.Machine

open Sys2Proof

/-- The registers SEED leaves in lane `k`: `enc_D(2^ID[k])`, count 0, batch position 0, RUNNING (R87). -/
def seededLane (c : Config) (k : LaneIdx) : Lane :=
  { phase := .running, buf := enc c.d (2 ^ (laneId k).toNat), cnt := 0, bpos := 0 }

/-- The registers STEP leaves in a lane: the multiplied buffer, `(CNT + 1) mod 2^64`, `BPOS + 1` (R88). -/
def steppedLane (c : Config) (l : Lane) : Lane :=
  { l with buf := (mulPass c.f l.buf).1, cnt := l.cnt + 1, bpos := l.bpos + 1 }

/-- The records STEP appends: `Match(B')` when the all-even flag of the multiplication is set (R77, R88). -/
def stepRecords (c : Config) (l : Lane) : List OutRecord :=
  if (mulPass c.f l.buf).2 then [.matched (mulPass c.f l.buf).1] else []

/-- SEED k (R87); guard `LPH[k] = INIT`. -/
def execSeed (k : LaneIdx) (s : State) : Host.Outcome State Fault Refusal :=
  laneOperation (.seed k) k ((s.lane k).phase == .init) (s.setLane k (seededLane s.cfg k)) s

/-- STEP k (R88); guard `LPH[k] = RUNNING` and `BPOS[k] < BATCH`. -/
def execStep (k : LaneIdx) (s : State) : Host.Outcome State Fault Refusal :=
  laneOperation (.step k) k ((s.lane k).phase == .running && decide ((s.lane k).bpos < s.cfg.batch))
    ((s.setLane k (steppedLane s.cfg (s.lane k))).emit (stepRecords s.cfg (s.lane k))) s

/-- REPORT k (R89); guard `LPH[k] = RUNNING` and `BPOS[k] = BATCH`. -/
def execReport (k : LaneIdx) (s : State) : Host.Outcome State Fault Refusal :=
  laneOperation (.report k) k ((s.lane k).phase == .running && decide ((s.lane k).bpos = s.cfg.batch))
    ((s.setLane k { s.lane k with bpos := 0 }).emit [.progress (s.lane k).cnt (laneId k)]) s

end Sys2Proof.Machine
end

