-- ==== Sys2Proof/Machine/Dispatch.lean ====
section
/-! DEFINITION. One arm per operation. -/

namespace Sys2Proof.Machine

open Sys2Proof

/-- The meaning of an operation. -/
def exec (i : Instr) (s : State) : Host.Outcome State Fault Refusal :=
  match i with
  | .check => Sys2Proof.Machine.execCheck s
  | .seed k => Sys2Proof.Machine.execSeed k s
  | .step k => Sys2Proof.Machine.execStep k s
  | .report k => Sys2Proof.Machine.execReport k s

end Sys2Proof.Machine
end

