-- ==== Sys2Proof/Machine/Sequencer.lean ====
section
/-! DEFINITION. What each agent does next (R82, R83), who has a step (R85), and what one step of the machine takes: the
next event from outside, or a free choice of the scheduler. -/

namespace Sys2Proof.Machine

open Sys2Proof

/-- The lane sequencer (R83). `BPOS[k]` is at most `BATCH` (R20), so a lane that is not below `BATCH` is at it. -/
def State.nextLaneOp (s : State) (k : LaneIdx) : Instr :=
  match (s.lane k).phase with
  | .init => .seed k
  | .running => if (s.lane k).bpos < s.cfg.batch then .step k else .report k

/-- The next operation of an agent, if it has one: the controller's while UNCHECKED (R82), a lane's while RUN (R83). -/
def State.nextOp (s : State) : Agent → Option Instr
  | .controller => if s.corePh == .unchecked && !s.stopped then some .check else none
  | .lane k =>
    if s.corePh == .run && !s.stopped && decide (laneOperand k < s.cfg.w) then some (s.nextLaneOp k) else none

/-- The agents with an enabled step (R85). -/
def State.enabledAgents (s : State) : List Agent :=
  if s.halted then []
  else match s.corePh with
    | .unchecked => [.controller]
    | .run => (List.range s.cfg.w).map fun k => .lane (BitVec.ofNat 4 k)
    | .fatal => []

/-- The agent that the scheduler's choice `n` names: the controller while UNCHECKED, lane `n mod W` afterwards (R85; log
entry 5). -/
def State.turnAgent (s : State) (n : Nat) : Agent :=
  if s.corePh == .unchecked then .controller else .lane (BitVec.ofNat 4 (n % s.cfg.w))

/-- An autonomous step (R81): the chosen agent performs its next operation. -/
def takeTurn (n : Nat) (s : State) : Host.Outcome State Fault Refusal :=
  match s.nextOp (s.turnAgent n) with
  | some i => exec i s
  | none => .fault s.haltReason

/-- A word of a trace (R65, R81): decoded first, which is where ILLEGAL_OP and BAD_LANE come from, then performed. -/
def performWord (w : OpWord) (s : State) : Host.Outcome State Fault Refusal :=
  match decode s.cfg w with
  | .instr i => exec i s
  | .illegal w => operate s (.next (s.raise .illegalOp w none))
  | .badLane w => operate s (.next (s.raise .badLane w none))

/-- The first RESET to come, and what follows it: to a halted block nothing else matters (R100, R105; log entry 7). -/
def pendingReset : List Input → Option (Nat × List Input)
  | [] => none
  | .reset v :: rest => some (v, rest)
  | .word _ :: rest => pendingReset rest
  | .turn _ :: rest => pendingReset rest
  | .stop :: rest => pendingReset rest

/-- A halted block: only RESET starts it again (R101, R105). -/
def awaitReset (s : State) : Host.Outcome State Fault Refusal :=
  match pendingReset s.inputs with
  | some (v, rest) => .next (s.resetRun v rest)
  | none => .fault s.haltReason

/-- A running block: the next event from outside; with none to come, an autonomous step of an agent nobody fixes. -/
def takeInput (s : State) : Host.Outcome State Fault Refusal :=
  match s.inputs with
  | [] => takeTurn (Config.freeTurn s.turns) { s with turns := s.turns + 1 }
  | .turn n :: rest => takeTurn n { s with inputs := rest }
  | .word w :: rest => performWord w { s with inputs := rest }
  | .reset v :: rest => .next (s.resetRun v rest)
  | .stop :: rest => .next { s with inputs := rest, stopped := true }

/-- One step of the machine. -/
def advance (s : State) : Host.Outcome State Fault Refusal :=
  if !s.isBuild then .refused .notABuild
  else if s.halted then awaitReset s
  else takeInput s

/-- A trace of operation words presented before what else is to come (R65). -/
def State.withTrace (s : State) (ws : List OpWord) : State := { s with inputs := ws.map .word ++ s.inputs }

end Sys2Proof.Machine
end

