-- ==== Sys2Proof/Machine/Step.lean ====
section
/-! DEFINITION. The step of the machine, and where a word is put for the next step to perform it. -/

namespace Sys2Proof.Machine

open Sys2Proof

/-- One step: one atomic operation of one agent (R40), or one event from outside between two operations (R103). -/
def step (s : State) : Host.Outcome State Fault Refusal := advance s

/-- The state with the word presented as the next one of a trace (R65). The block fetches no instructions (R49): a word
reaches it from outside (log entry 6). -/
def State.withFetchWord (s : State) (nbits w : Nat) : State := s.withTrace [tableWord nbits w]

end Sys2Proof.Machine
end

