-- ==== Sys2Proof/Machine/Assembler.lean ====
section
/-! DEFINITION. The trace syntax and its pseudo-operations (R63, R64). -/

namespace Sys2Proof.Machine

open Sys2Proof

/-- `boot`: `check`, then `seed 0` to `seed W-1` (R64). -/
def bootWords (c : Config) : List OpWord :=
  encode .check :: (List.range c.w).map fun k => encode (.seed (BitVec.ofNat 4 k))

/-- `steps <k>, <m>`: `m` copies of `step <k>` (R64). -/
def stepsWords (k : LaneIdx) (m : Nat) : List OpWord := List.replicate m (encode (.step k))

/-- `batch <k>`: `BATCH` copies of `step <k>`, then `report <k>` (R64). -/
def batchWords (c : Config) (k : LaneIdx) : List OpWord := stepsWords k c.batch ++ [encode (.report k)]

/-- The mnemonic of an operation in a trace (R63). -/
def mnemonicText : Instr → Text
  | .check => ['c', 'h', 'e', 'c', 'k']
  | .seed _ => ['s', 'e', 'e', 'd']
  | .step _ => ['s', 't', 'e', 'p']
  | .report _ => ['r', 'e', 'p', 'o', 'r', 't']

/-- A line up to its comment (R63). -/
def stripComment (t : Text) : Text := t.takeWhile (· != ';')

/-- White space between the parts of a line (log entry 14). -/
def isBlank (c : Char) : Bool := c == ' ' || c == '\t' || c == '\r'

/-- Put one character in front of the parts read so far. -/
def addToParts (c : Char) (parts : List Text) : List Text :=
  if isBlank c then [] :: parts
  else if c == ',' then [] :: [','] :: parts
  else match parts with
    | [] => [[c]]
    | p :: ps => (c :: p) :: ps

/-- The parts of a line: words and commas. -/
def lineParts (t : Text) : List Text := (t.foldr addToParts [[]]).filter fun p => !p.isEmpty

/-- The value of a decimal digit character. -/
def charDigit (c : Char) : Option Nat :=
  if 48 ≤ c.toNat ∧ c.toNat ≤ 57 then some (c.toNat - 48) else none

/-- A decimal numeral read from its most significant digit, after the value `v` of what stands before. -/
def readFrom (v : Nat) : Text → Option Nat
  | [] => some v
  | c :: cs =>
    match charDigit c with
    | some d => readFrom (10 * v + d) cs
    | none => none

/-- A decimal numeral (log entry 14). -/
def readNat (t : Text) : Option Nat := if t.isEmpty then none else readFrom 0 t

/-- A lane number: "an assembler refuses a lane number above 15" and "does not check `k < W`" (R63). -/
def readLane (t : Text) : Option LaneIdx :=
  match readNat t with
  | some n => if n < 16 then some (BitVec.ofNat 4 n) else none
  | none => none

/-- The words of a line with a mnemonic and a lane number; `none` for "any other mnemonic" (R63, R64). -/
def assembleLaneLine (c : Config) (m : Text) (k : LaneIdx) : Option (List OpWord) :=
  if m = mnemonicText (.seed k) then some [encode (.seed k)]
  else if m = mnemonicText (.step k) then some [encode (.step k)]
  else if m = mnemonicText (.report k) then some [encode (.report k)]
  else if m = ['b', 'a', 't', 'c', 'h'] then some (batchWords c k)
  else none

/-- The words of one line of a trace (R63, R64); `none` where the assembler refuses it. -/
def assembleLine (c : Config) (t : Text) : Option (List OpWord) :=
  match lineParts (stripComment t) with
  | [] => some []
  | [m] =>
    if m = mnemonicText .check then some [encode .check]
    else if m = ['b', 'o', 'o', 't'] then some (bootWords c)
    else none
  | [m, k] =>
    match readLane k with
    | some k => assembleLaneLine c m k
    | none => none
  | [m, k, comma, n] =>
    if m = ['s', 't', 'e', 'p', 's'] ∧ comma = [','] then
      match readLane k, readNat n with
      | some k, some n => some (stepsWords k n)
      | _, _ => none
    else none
  | _ => none

/-- The words of a trace given as lines (R63, R65); `none` where a line is refused. -/
def assemble (c : Config) : List Text → Option (List OpWord)
  | [] => some []
  | t :: ts =>
    match assembleLine c t, assemble c ts with
    | some ws, some rest => some (ws ++ rest)
    | _, _ => none

/-- The numeral of a number, as text. -/
def numberText (n : Nat) : Text := (decNumeral n).map fun d => Char.ofNat (48 + d.val)

/-- The numeral of a lane number, as text (R63). -/
def laneText (k : LaneIdx) : Text := numberText k.toNat

/-- An operation written as a line of a trace (R63). -/
def operationText : Instr → Text
  | .check => mnemonicText .check
  | .seed k => mnemonicText (.seed k) ++ ' ' :: laneText k
  | .step k => mnemonicText (.step k) ++ ' ' :: laneText k
  | .report k => mnemonicText (.report k) ++ ' ' :: laneText k

end Sys2Proof.Machine
end

