-- ==== Sys2Proof/Machine/Build.lean ====
section
/-! DEFINITION. The machine of a build: it takes the build parameters as its argument and has the block alone as its
state (R5; log entry 1). -/

namespace Sys2Proof.Machine

open Sys2Proof

/-- An outcome of the host's interface, seen by a machine whose build parameters are its argument. -/
def blockOutcome : Host.Outcome State Fault Refusal → Host.Outcome Block Fault Refusal
  | .next s => .next s.toBlock
  | .fault f => .fault f
  | .refused r => .refused r

/-- An outcome of the machine of build `c`, seen by the host's interface. -/
def inBuildOutcome (c : Config) : Host.Outcome Block Fault Refusal → Host.Outcome State Fault Refusal
  | .next b => .next (b.inBuild c)
  | .fault f => .fault f
  | .refused r => .refused r

/-- The effect of an operation on a block of build `c`. -/
def buildExec (c : Config) (i : Instr) (b : Block) : Host.Outcome Block Fault Refusal := blockOutcome (exec i (b.inBuild c))

/-- One step of a block of build `c`. -/
def buildStep (c : Config) (b : Block) : Host.Outcome Block Fault Refusal := blockOutcome (step (b.inBuild c))

/-- The block right after RESET of build `c`, with `W_ENV` presented by the host (R32, R115). -/
def buildReset (c : Config) (wEnv : Nat) : Block := (State.resetOf c wEnv).toBlock

/-- The machine of build `c`, whose host presents `wEnv` (R5, R27). What is no build is refused at every step. -/
def machine (c : Config) (wEnv : Nat) : Host.Core :=
  { State := Block
    Fault := Fault
    Refusal := Refusal
    step := buildStep c
    reset := buildReset c wEnv }

end Sys2Proof.Machine
end

