-- ==== Sys2Proof/Safety.lean ====
section
/-! DEFINITION. What a state of a run is: the invariants claims are stated with, what a lane has computed (R91) and
emitted (R92, R94), and runs of operations. -/

namespace Sys2Proof.Machine

open Sys2Proof

/-- There is a block (R5, R109), and it is neither stopped (R105) nor FATAL (R100). -/
def State.live (s : State) : Bool := s.isBuild && !s.halted

/-- The guards of the operations (R86 to R89), as the spec writes them. -/
def State.guard (s : State) : Instr → Bool
  | .check => s.corePh == .unchecked
  | .seed k => s.corePh == .run && (s.lane k).phase == .init
  | .step k => s.corePh == .run && (s.lane k).phase == .running && decide ((s.lane k).bpos < s.cfg.batch)
  | .report k => s.corePh == .run && (s.lane k).phase == .running && decide ((s.lane k).bpos = s.cfg.batch)

/-- Everything but the lanes and OUT is the same in two states. -/
def State.sameElsewhere (s t : State) : Prop := t = { s with lanes := t.lanes, out := t.out }

/-- Every lane but `k` is the same in two states: its registers (R42, R109), and every digit read from its digit space. -/
def State.otherLanesSame (s t : State) (k : LaneIdx) : Prop :=
  t.lanes.length = s.lanes.length ∧
  ∀ j, j ≠ k → t.lane j = s.lane j ∧ ∀ i, t.memRead j i = s.memRead j i

/-- The state after the fault action (R98) with these recorded values, and nothing else changed. -/
def State.afterFault (s : State) (cause : BitVec 4) (op : OpWord) (wenv : Option Nat) : State :=
  { s with corePh := .fatal, faultCause := cause, faultOp := op,
           diag := s.diag ++ [{ cause := cause, op := op, wenv := wenv, w := s.cfg.w }] }

/-- The registers of a lane keep their form: exactly `D` digit cells (R15, R16), `BPOS` in `[0, BATCH]` (R20). -/
def Lane.wf (c : Config) (l : Lane) : Bool := Memory.wf c.d l.buf && decide (l.bpos ≤ c.batch)

/-- A record keeps its form (R28): a Match holds `D` digits, a Progress names a lane of the build. -/
def OutRecord.wf (c : Config) : OutRecord → Bool
  | .matched b => Memory.wf c.d b
  | .progress _ k => decide (k.toNat < c.w)

/-- The state keeps its form: a build, with `W` lanes, all registers and records of their form. -/
def State.wf (s : State) : Bool := s.isBuild && s.lanes.all (Lane.wf s.cfg) && s.out.all (OutRecord.wf s.cfg)

/-- Which cause code goes with the recorded word (R96): the word's decoding tells codes 2, 3 and 4 apart, and code 1 is
CHECK's with `W_ENV != W`. -/
def State.faultCauseFits (s : State) : Prop :=
  match decode s.cfg s.faultOp with
  | .illegal _ => s.faultCause = 2
  | .badLane _ => s.faultCause = 3
  | .instr i => s.faultCause = 4 ∨ (s.faultCause = 1 ∧ i = .check ∧ s.wEnv ≠ s.cfg.w)

/-- The fault registers and DIAG (R24, R25, R29): while FATAL they hold one fault and its one record, with `wenv` only for
CFG_MISMATCH (R62); otherwise there is none. -/
def State.faultsRecorded (s : State) : Prop :=
  (s.corePh = .fatal →
    s.faultCauseFits ∧
    s.diag = [{ cause := s.faultCause, op := s.faultOp,
                wenv := if s.faultCause = 1 then some s.wEnv else none, w := s.cfg.w }]) ∧
  (s.corePh ≠ .fatal → s.faultCause = 0 ∧ s.faultOp = 0 ∧ s.diag = [])

/-- No lane has performed any operation. -/
def State.lanesUntouched (s : State) : Prop := (∀ l ∈ s.lanes, l.phase = .init) ∧ s.out = []

/-- CHECK comes first (R82, R99): RUN means it passed, and before it, or when it failed, no lane has done anything. -/
def State.checkFirst (s : State) : Prop :=
  (s.corePh = .run → s.wEnv = s.cfg.w) ∧
  (s.corePh = .unchecked → s.lanesUntouched) ∧
  (s.corePh = .fatal → s.faultCause = 1 → s.lanesUntouched)

/-- R91: lane `k` has performed `n` STEPs and `r` REPORTs since its SEED. -/
def laneTracks (c : Config) (k : Nat) (l : Lane) (n r : Nat) : Prop :=
  l.buf = enc c.d (2 ^ (k + c.w * n)) ∧ l.cnt = BitVec.ofNat 64 n ∧ n = c.batch * r + l.bpos ∧ l.bpos ≤ c.batch

/-- R91 of every lane that runs. -/
def State.tracksExponents (s : State) : Prop :=
  ∀ k : LaneIdx, k.toNat < s.cfg.w → (s.lane k).phase = .running →
    ∃ n r, laneTracks s.cfg k.toNat (s.lane k) n r

/-- The records lane `k` appends for its `m`-th STEP (R92), and after it once `r` REPORTs are done (R94). -/
def laneStepRecords (c : Config) (k r m : Nat) : List OutRecord :=
  (if allEven (enc c.d (2 ^ (k + c.w * m))) then [.matched (enc c.d (2 ^ (k + c.w * m)))] else []) ++
  (if c.batch ∣ m ∧ m / c.batch ≤ r then [.progress (BitVec.ofNat 64 m) (BitVec.ofNat 4 k)] else [])

/-- All the records lane `k` has appended after `n` STEPs and `r` REPORTs, in its own order (R45, R84). -/
def laneRecords (c : Config) (k n r : Nat) : List OutRecord :=
  (List.range n).flatMap fun j => laneStepRecords c k r (j + 1)

/-- The history of a run (R45, R91, R92, R94): each lane has performed some numbers of STEPs and REPORTs, its registers
are what these give, and OUT is an interleaving of the records these give, each lane's in its own order (`tagged` is OUT
with the lane that appended each record). -/
def State.hasHistory (s : State) : Prop :=
  ∃ (n r : Nat → Nat) (tagged : List (Nat × OutRecord)),
    tagged.map Prod.snd = s.out ∧
    (∀ p ∈ tagged, p.1 < s.cfg.w) ∧
    ∀ k : LaneIdx, k.toNat < s.cfg.w →
      ((s.lane k).phase = .init → n k.toNat = 0 ∧ r k.toNat = 0) ∧
      ((s.lane k).phase = .running → laneTracks s.cfg k.toNat (s.lane k) (n k.toNat) (r k.toNat)) ∧
      (tagged.filter fun p => p.1 == k.toNat).map Prod.snd
        = laneRecords s.cfg k.toNat (n k.toNat) (r k.toNat)

/-- A Progress record of lane `k`. -/
def OutRecord.isProgressOf (k : LaneIdx) : OutRecord → Bool
  | .matched _ => false
  | .progress _ j => j == k

/-- The state without what RESET leaves unspecified (R32): `BUF`, `CNT` and `BPOS` of the lanes still INIT. -/
def State.forgetUnseeded (s : State) : State :=
  { s with lanes := s.lanes.map fun l => if l.phase = .init then Lane.reset s.cfg else l }

/-- An outcome, up to what RESET leaves unspecified. -/
def outcomeView : Host.Outcome State Fault Refusal → Option State × Option Fault × Option Refusal
  | .next s => (some s.forgetUnseeded, none, none)
  | .fault f => (none, some f, none)
  | .refused r => (none, none, some r)

/-- The next state, if there is one. -/
def nextState? : Host.Outcome State Fault Refusal → Option State
  | .next s => some s
  | .fault _ => none
  | .refused _ => none

/-- A sequence of operations, performed while the block runs: no state where it is not RUN afterwards. -/
def execAll : List Instr → State → Option State
  | [], s => some s
  | i :: is, s =>
    match exec i s with
    | .next t => if t.corePh = .run then execAll is t else none
    | .fault _ => none
    | .refused _ => none

/-- The buffer of lane `k` after its SEED and `m` STEPs (R87, R88): the seed multiplied `m` times. -/
def laneBuffer (c : Config) (k : Nat) : Nat → Buffer
  | 0 => enc c.d (2 ^ k)
  | m + 1 => (mulPass c.f (laneBuffer c k m)).1

end Sys2Proof.Machine
end

