-- ==== Sys2Proof/Certificates/Slice0/Obligations.lean ====
section
/-! DEFINITION. The statements for the provers. -/

open Sys2Proof Sys2Proof.Machine

/-! ### Encoding -/

/-- R54, R58: every operation of a build decodes from its own word, and a word that decodes to an operation is that
operation's word, for a lane of the build. -/
def Obligations.DecodeAndEncodeAgree : Prop :=
  ∀ (c : Config) (i : Instr),
    (i.wellFormed c = true → decode c (encode i) = .instr i) ∧
    ∀ w, decode c w = .instr i → encode i = w ∧ i.wellFormed c = true

/-- R58: the decoding of every byte, by its two fields, in the order of R58's tests. -/
def Obligations.DecodingFollowsItsTests : Prop :=
  ∀ (c : Config) (w : OpWord),
    (w.toNat / 16 = 0 ∧ w.toNat % 16 = 0 → decode c w = .instr .check) ∧
    (w.toNat / 16 = 0 ∧ w.toNat % 16 ≠ 0 → decode c w = .illegal w) ∧
    (1 ≤ w.toNat / 16 ∧ w.toNat / 16 ≤ 3 ∧ c.w ≤ w.toNat % 16 → decode c w = .badLane w) ∧
    (w.toNat / 16 = 1 ∧ w.toNat % 16 < c.w → decode c w = .instr (.seed (BitVec.ofNat 4 (w.toNat % 16)))) ∧
    (w.toNat / 16 = 2 ∧ w.toNat % 16 < c.w → decode c w = .instr (.step (BitVec.ofNat 4 (w.toNat % 16)))) ∧
    (w.toNat / 16 = 3 ∧ w.toNat % 16 < c.w → decode c w = .instr (.report (BitVec.ofNat 4 (w.toNat % 16)))) ∧
    (4 ≤ w.toNat / 16 → decode c w = .illegal w)

/-- R54: some words written out from the table of operation codes, on the reference build's four lanes. -/
def Obligations.WrittenOutWordsDecode : Prop :=
  decode Config.reference 0b00000000 = .instr .check ∧
  decode Config.reference 0b00010011 = .instr (.seed 3) ∧
  decode Config.reference 0b00100001 = .instr (.step 1) ∧
  decode Config.reference 0b00110010 = .instr (.report 2) ∧
  decode Config.reference 0b00100101 = .badLane 0x25 ∧
  decode Config.reference 0b00000101 = .illegal 0x05 ∧
  decode Config.reference 0b01000000 = .illegal 0x40

/-- R63: the line of an operation assembles to its one word, whatever the build's `W`. -/
def Obligations.OperationLinesAssemble : Prop :=
  ∀ (c : Config) (i : Instr), assembleLine c (operationText i) = some [encode i]

/-- R64: the three pseudo-operations expand to their words, for every lane number and every count. -/
def Obligations.PseudoOperationsExpand : Prop :=
  ∀ (c : Config) (k : LaneIdx) (m : Nat),
    assembleLine c ['b', 'o', 'o', 't']
      = some (encode .check :: (List.range c.w).map fun j => encode (.seed (BitVec.ofNat 4 j))) ∧
    assembleLine c (['s', 't', 'e', 'p', 's', ' '] ++ numberText k.toNat ++ [',', ' '] ++ numberText m)
      = some (List.replicate m (encode (.step k))) ∧
    assembleLine c (['b', 'a', 't', 'c', 'h', ' '] ++ numberText k.toNat)
      = some (List.replicate c.batch (encode (.step k)) ++ [encode (.report k)])

/-! ### The multiplier -/

/-- R67: at `F = 16` the cell of any build is the reference build's `6*d + cin` cell. -/
def Obligations.ReferenceCellIsTheCellAt16 : Prop := ∀ (d : Digit) (cin : Nat), cell 16 d cin = cell16 d cin

/-- R69: the split cell computes the digit and the carry of `F*d + cin`. (The spec marks R69 as its own derivation.) -/
def Obligations.CellIsMultiplyAdd : Prop :=
  ∀ (f : Nat) (d : Digit) (cin : Nat),
    (cell f d cin).1.val = (f * d.val + cin) % 10 ∧ (cell f d cin).2 = (f * d.val + cin) / 10

/-- R70: from a carry in `[0, F-1]` the cell hands on a carry in `[0, F-1]`, and its digit is in `[0, 9]`. (The spec
marks R70 as its own derivation.) -/
def Obligations.CellCarryStaysBelowFactor : Prop :=
  ∀ (f : Nat) (d : Digit) (cin : Nat), cin < f → (cell f d cin).1.val ≤ 9 ∧ (cell f d cin).2 < f

/-- R72: after `i` positions the pass holds the carry `(F * (V mod 10^i)) div 10^i`, below `F`, and the digits it
has written make up `F * (V mod 10^i)` with it; the carry out of the top is `(F * V) div 10^D`. (The spec marks R72
as its own derivation.) -/
def Obligations.PassCarryInvariant : Prop :=
  ∀ (f : Nat) (b : Buffer), 1 ≤ f →
    (∀ i ≤ b.length,
      (mulPassCarry f (b.take i)).carry = f * (val b % 10 ^ i) / 10 ^ i ∧
      (mulPassCarry f (b.take i)).carry < f ∧
      val (mulPassCarry f (b.take i)).buf + (mulPassCarry f (b.take i)).carry * 10 ^ i = f * (val b % 10 ^ i)) ∧
    (mulPassCarry f (b.take 0)).carry = 0 ∧
    (mulPassCarry f b).carry = f * val b / 10 ^ b.length

/-- R74: the pass multiplies by `F` modulo `10^D`. (The spec marks R74 as its own derivation.) -/
def Obligations.PassMultipliesModuloWindow : Prop :=
  ∀ (f : Nat) (b : Buffer),
    val (mulPass f b).1 = f * val b % 10 ^ b.length ∧ (mulPass f b).1 = enc b.length (f * val b)

/-- R71, R73: what the pass writes below a position does not depend on the digits from there up; in particular the
carry out of the top reaches no digit. -/
def Obligations.LowDigitsIgnoreHighDigits : Prop :=
  ∀ (f : Nat) (b high : Buffer), (mulPass f (b ++ high)).1.take b.length = (mulPass f b).1

/-- R75: the flag of the pass is "every digit of the result is even", over every position. -/
def Obligations.FlagIsAllEvenOfResult : Prop :=
  ∀ (f : Nat) (b : Buffer), (mulPass f b).2 = true ↔ ∀ d ∈ (mulPass f b).1, d.val % 2 = 0

/-- R41, R71: the loop over `MemRead` and `MemWrite` that runs in place leaves the same buffer, carry and parity as
the pass that builds a new buffer. (The spec marks R41 as its own derivation.) -/
def Obligations.InPlacePassIsThePass : Prop :=
  ∀ (f : Nat) (b : Buffer), passInPlace f b.length 0 0 true b = mulPassCarry f b

/-- R79: the corner cases of the pass, and that no power of two leaves a buffer of zeros. (The spec marks R79 as its
own derivation.) -/
def Obligations.PassCornerCases : Prop :=
  (∀ (f : Nat) (d : Digit), (mulPass f [d]).1 = [digitOf (f * d.val)] ∧ (mulPass f [d]).2 = even (digitOf (f * d.val))) ∧
  (∀ f n : Nat, mulPass f (List.replicate n 0) = (List.replicate n 0, true)) ∧
  (∀ (f : Nat) (b : Buffer), 10 ^ b.length ∣ f * val b → mulPass f b = (List.replicate b.length 0, true)) ∧
  (∀ f n : Nat, 1 ≤ f → f < 10 ^ n → val (mulPass f (List.replicate n 9)).1 = 10 ^ n - f) ∧
  (∀ d n : Nat, 1 ≤ d → enc d (2 ^ n) ≠ List.replicate d 0)

/-- R80: a buffer is the encoding of its value, and the value of an encoding is the number modulo `10^D`. (The spec
marks R80 as its own derivation.) -/
def Obligations.BufferRepresentationRoundTrips : Prop :=
  (∀ b : Buffer, enc b.length (val b) = b) ∧ ∀ d v : Nat, val (enc d v) = v % 10 ^ d

/-- R93: what a Match says about `2^n`. (The spec marks R93 as its own derivation.) -/
def Obligations.MatchMeansLowDigitsEven : Prop :=
  ∀ d n : Nat,
    (allEven (enc d (2 ^ n)) = true ↔ ∀ i < d, 2 ^ n / 10 ^ i % 10 % 2 = 0) ∧
    (2 ^ n < 10 ^ d → (allEven (enc d (2 ^ n)) = true ↔ ∀ x ∈ Nat.digits 10 (2 ^ n), x % 2 = 0)) ∧
    (allEven (enc d (2 ^ n)) = false → ∃ x ∈ Nat.digits 10 (2 ^ n), x % 2 = 1)

/-! ### The operations, where they complete -/

/-- R86: CHECK with `W_ENV = W` sets `CORE_PH` to RUN, and changes nothing else. -/
def Obligations.CheckPassesIntoRun : Prop :=
  ∀ s : State, s.live = true → s.corePh = .unchecked → s.wEnv = s.cfg.w → exec .check s = .next { s with corePh := .run }

/-- R86, R98: CHECK with any other `W_ENV` raises CFG_MISMATCH: the fault registers and one DIAG record, nothing
else. -/
def Obligations.CheckMismatchHalts : Prop :=
  ∀ s : State, s.live = true → s.corePh = .unchecked → s.wEnv ≠ s.cfg.w →
    exec .check s = .next (s.afterFault 1 0x00 (some s.wEnv))

/-- R87: SEED of an INIT lane leaves `2^k mod 10^D` in its buffer, 0 in its counter and batch position, and RUNNING;
no other lane, no record and no other register changes. -/
def Obligations.SeedInitialisesItsLane : Prop :=
  ∀ (k : LaneIdx) (s : State), s.live = true → s.corePh = .run → k.toNat < s.cfg.w → (s.lane k).phase = .init →
    ∃ t, exec (.seed k) s = .next t ∧
      t.lane k = { phase := .running, buf := enc s.cfg.d (2 ^ k.toNat), cnt := 0, bpos := 0 } ∧
      val (t.lane k).buf = 2 ^ k.toNat % 10 ^ s.cfg.d ∧
      t.out = s.out ∧ s.otherLanesSame t k ∧ s.sameElsewhere t

/-- R88: STEP of a RUNNING lane below its batch's end multiplies its buffer by `2^W` modulo `10^D`, emits it as a
Match exactly when all its digits are even, and counts; no other lane and no other register changes. -/
def Obligations.StepMultipliesAndDetects : Prop :=
  ∀ (k : LaneIdx) (s : State), s.live = true → s.corePh = .run → k.toNat < s.cfg.w → (s.lane k).phase = .running →
    (s.lane k).bpos < s.cfg.batch →
    ∃ t, exec (.step k) s = .next t ∧
      (t.lane k).buf = enc (s.lane k).buf.length (2 ^ s.cfg.w * val (s.lane k).buf) ∧
      (t.lane k).cnt.toNat = ((s.lane k).cnt.toNat + 1) % 2 ^ 64 ∧
      (t.lane k).bpos = (s.lane k).bpos + 1 ∧ (t.lane k).phase = .running ∧
      ((∀ d ∈ (t.lane k).buf, d.val % 2 = 0) → t.out = s.out ++ [.matched (t.lane k).buf]) ∧
      ((∃ d ∈ (t.lane k).buf, d.val % 2 = 1) → t.out = s.out) ∧
      s.otherLanesSame t k ∧ s.sameElsewhere t

/-- R89: REPORT of a RUNNING lane at its batch's end appends its count and identity and starts the next batch; its
buffer and counter, every other lane and every other register are unchanged. -/
def Obligations.ReportEmitsAndRestartsBatch : Prop :=
  ∀ (k : LaneIdx) (s : State), s.live = true → s.corePh = .run → k.toNat < s.cfg.w → (s.lane k).phase = .running →
    (s.lane k).bpos = s.cfg.batch →
    ∃ t, exec (.report k) s = .next t ∧
      t.lane k = { s.lane k with bpos := 0 } ∧ t.out = s.out ++ [.progress (s.lane k).cnt k] ∧
      s.otherLanesSame t k ∧ s.sameElsewhere t

/-- R39: an operation whose guard holds changes the state. (The spec marks R39 as its own derivation.) -/
def Obligations.EveryOperationChangesState : Prop :=
  ∀ (i : Instr) (s t : State), i.wellFormed s.cfg = true → s.guard i = true → exec i s = .next t → t ≠ s

/-! ### The operations, where they fault -/

/-- R81, R96: an operation of the build whose guard does not hold raises OUT_OF_SEQUENCE, with no other effect. -/
def Obligations.GuardFailureIsOutOfSequence : Prop :=
  ∀ (i : Instr) (s : State), s.live = true → i.wellFormed s.cfg = true → s.guard i = false →
    exec i s = .next (s.afterFault 4 (encode i) none)

/-- R55, R96: a lane operation on a lane `k >= W` raises BAD_LANE, whether or not its guard could hold. That the
meaning itself answers so is the model's choice (log entry 17). -/
def Obligations.MissingLaneIsBadLane : Prop :=
  ∀ (i : Instr) (s : State), s.live = true → i.wellFormed s.cfg = false →
    exec i s = .next (s.afterFault 3 (encode i) none)

/-- R56, R96: a reserved word of a trace raises ILLEGAL_OP, with no other effect. The place of the word is the
model's choice (log entry 6). -/
def Obligations.ReservedWordIsIllegalOp : Prop :=
  ∀ (s : State) (w : OpWord) (rest : List Input), s.live = true → s.inputs = .word w :: rest →
    (0x01 ≤ w.toNat ∧ w.toNat ≤ 0x0F) ∨ 0x40 ≤ w.toNat →
    step s = .next ({ s with inputs := rest }.afterFault 2 w none)

/-- R103: one word reports one fault. A missing lane is reported before a failed guard, in every phase, and a failed
guard before a wrong `W_ENV`. The place of the word is the model's choice (log entry 6). -/
def Obligations.FaultPriority : Prop :=
  (∀ (s : State) (w : OpWord) (rest : List Input), s.live = true → s.inputs = .word w :: rest →
    0x10 ≤ w.toNat → w.toNat ≤ 0x3F → s.cfg.w ≤ w.toNat % 16 →
    step s = .next ({ s with inputs := rest }.afterFault 3 w none)) ∧
  (∀ (s : State) (rest : List Input), s.live = true → s.inputs = .word 0x00 :: rest → s.corePh = .run →
    step s = .next ({ s with inputs := rest }.afterFault 4 0x00 none))

/-- R98, R99: an operation that leaves the block FATAL has changed no lane and no record of OUT, and has recorded
one of the causes 1 to 4, its own word, and `W_ENV` for CFG_MISMATCH alone. (The spec marks R99 as its own
derivation.) -/
def Obligations.FaultsArePrecise : Prop :=
  ∀ (i : Instr) (s t : State), exec i s = .next t → t.corePh = .fatal →
    t.lanes = s.lanes ∧ t.out = s.out ∧ 1 ≤ t.faultCause.toNat ∧ t.faultCause.toNat ≤ 4 ∧
    (t.faultCause = 1 → i = .check ∧ s.corePh = .unchecked ∧ s.wEnv ≠ s.cfg.w) ∧
    t = s.afterFault t.faultCause (encode i) (if t.faultCause = 1 then some s.wEnv else none)

/-- R42, R109: whatever an operation of lane `k` does, every other lane, with its digit space, is as before, and so
are the parameters and the inputs; CHECK changes no lane and no record of OUT. -/
def Obligations.OperationsStayInTheirLane : Prop :=
  ∀ (i : Instr) (s t : State), exec i s = .next t →
    (∀ k, i.agent = .lane k → s.otherLanesSame t k) ∧
    (i.agent = .controller → t.lanes = s.lanes ∧ t.out = s.out) ∧
    t.cfg = s.cfg ∧ t.wEnv = s.wEnv ∧ t.stopped = s.stopped ∧ t.inputs = s.inputs ∧ t.turns = s.turns

/-- R5: what is no build is refused, by every operation and every step. The form of the refusal is the model's
choice (log entry 10). -/
def Obligations.NoBuildIsRefused : Prop :=
  ∀ s : State, s.cfg.legal = false → (∀ i, exec i s = .refused .notABuild) ∧ step s = .refused .notABuild

/-! ### The step, the sequencers, the events -/

/-- R65, R81: a step at a live state with a word presented performs the operation the word decodes to. The place of
the word is the model's choice (log entry 6). -/
def Obligations.StepPerformsTheWord : Prop :=
  ∀ (s : State) (w : OpWord) (rest : List Input) (i : Instr),
    s.live = true → s.inputs = .word w :: rest → decode s.cfg w = .instr i →
    step s = exec i { s with inputs := rest }

/-- R82, R83, R85: an autonomous step performs the next operation of an enabled agent, whichever the scheduler
chooses; and every enabled agent can be the one. How a choice comes to the step is the model's choice (log entry 5). -/
def Obligations.AutonomousStepIsAnyEnabledAgent : Prop :=
  ∀ s : State, s.live = true →
    (s.inputs = [] →
      ∃ a ∈ s.enabledAgents, ∃ i, s.nextOp a = some i ∧ step s = exec i { s with turns := s.turns + 1 }) ∧
    (∀ n rest, s.inputs = .turn n :: rest →
      ∃ a ∈ s.enabledAgents, ∃ i, s.nextOp a = some i ∧ step s = exec i { s with inputs := rest }) ∧
    (∀ a ∈ s.enabledAgents, ∀ rest, ∃ n i, s.nextOp a = some i ∧
      step { s with inputs := .turn n :: rest } = exec i { s with inputs := rest })

/-- R83: the lane sequencer, by its three cases; while `CORE_PH = RUN` (and STOP has not ended the run) it gives the
one operation of the lane whose guard holds, and in every other phase, FATAL among them, the lane has none. -/
def Obligations.LaneHasExactlyOneEnabledOperation : Prop :=
  ∀ (s : State) (k : LaneIdx), k.toNat < s.cfg.w → (s.lane k).bpos ≤ s.cfg.batch →
    (s.corePh = .run → s.stopped = false →
      ((s.lane k).phase = .init → s.nextOp (.lane k) = some (.seed k)) ∧
      ((s.lane k).phase = .running → (s.lane k).bpos < s.cfg.batch → s.nextOp (.lane k) = some (.step k)) ∧
      ((s.lane k).phase = .running → (s.lane k).bpos = s.cfg.batch → s.nextOp (.lane k) = some (.report k)) ∧
      ∀ i, s.nextOp (.lane k) = some i → i.agent = .lane k ∧ s.guard i = true) ∧
    (s.corePh = .run → ∃! i, i.agent = .lane k ∧ s.guard i = true) ∧
    (s.corePh ≠ .run → s.nextOp (.lane k) = none ∧ ∀ i, i.agent = .lane k → s.guard i = false)

/-- R96, R119: in autonomous operation every step of a live block goes on, the only fault that can arise is CHECK's
CFG_MISMATCH, and a running block keeps running. That autonomous operation is a step with no input or with a choice
presented, and that every choice `n` names an enabled agent, are the model's choices (log entries 5 and 6). -/
def Obligations.AutonomousOperationNeverFaultsInRun : Prop :=
  ∀ s : State, s.wf = true → s.halted = false → (s.inputs = [] ∨ ∃ n rest, s.inputs = .turn n :: rest) →
    ∃ t, step s = .next t ∧
      (s.corePh = .run → t.corePh = .run) ∧
      (t.corePh = .fatal → s.corePh = .unchecked ∧ s.wEnv ≠ s.cfg.w ∧ t.faultCause = 1)

/-- R81, R100: a FATAL block performs nothing: every operation and every step without a RESET presented is stuck.
The outcome `halted` is the model's choice (log entry 9). -/
def Obligations.HaltedBlockHasNoStep : Prop :=
  ∀ s : State, s.isBuild = true → s.stopped = false → s.corePh = .fatal →
    (∀ i, exec i s = .fault .halted) ∧
    ((∀ v, Input.reset v ∉ s.inputs) → step s = .fault .halted)

/-- R105: STOP changes nothing but that the run has ended; afterwards nothing is performed until a RESET. The place
of the event, the stop bit and the outcome `stopped` are the model's choices (log entries 6 to 9). -/
def Obligations.StopEndsTheRun : Prop :=
  ∀ (s : State) (rest : List Input), s.live = true → s.inputs = .stop :: rest →
    ∃ t, step s = .next t ∧ t = { s with inputs := rest, stopped := true } ∧
      (∀ i, exec i t = .fault .stopped) ∧ ((∀ v, Input.reset v ∉ rest) → step t = .fault .stopped)

/-- R112, R113: RESET, presented to a live, halted or stopped block, starts a new run: every register with a reset
value has it, the streams are empty, the parameters are kept, and `W_ENV` is the host's for the new run. The place
of the event and its `W_ENV` are the model's choice (log entries 4, 6 and 7). -/
def Obligations.ResetStartsANewRun : Prop :=
  ∀ (s : State) (v : Nat) (rest : List Input), s.isBuild = true → s.inputs = .reset v :: rest →
    ∃ t, step s = .next t ∧ t.cfg = s.cfg ∧ t.wEnv = v ∧ t.corePh = .unchecked ∧ t.faultCause = 0 ∧ t.faultOp = 0x00 ∧
      t.lanes.length = s.cfg.w ∧ (∀ l ∈ t.lanes, l.phase = .init) ∧ t.out = [] ∧ t.diag = [] ∧ t.stopped = false ∧
      t.inputs = rest

/-- R18, R32: what RESET leaves, in every build. -/
def Obligations.ResetLeavesTheSpecsValues : Prop :=
  ∀ (c : Config) (v : Nat),
    (State.resetOf c v).corePh.code = 0 ∧ (State.resetOf c v).faultCause = 0 ∧ (State.resetOf c v).faultOp = 0x00 ∧
    (State.resetOf c v).out = [] ∧ (State.resetOf c v).diag = [] ∧ (State.resetOf c v).wEnv = v ∧
    (∀ k : LaneIdx, k.toNat < c.w → ((State.resetOf c v).lane k).phase.code = 0 ∧ laneId k = k)

/-- R28: OUT is append-only: a step that is no RESET adds at most one record at its end. How a RESET comes to the
step is the model's choice (log entries 6 and 7). -/
def Obligations.OutIsAppendOnly : Prop :=
  ∀ s t : State, step s = .next t → (∃ v rest, t = s.resetRun v rest) ∨ ∃ r, t.out = s.out ++ r ∧ r.length ≤ 1

/-! ### Invariants every step keeps -/

/-- R16, R20, R28: the lanes keep their number, each buffer its `D` digits, each batch position its range, each
record its form, and the parameters their values. (The spec marks R16 as its own derivation.) -/
def Obligations.StepKeepsForm : Prop :=
  ∀ s t : State, s.wf = true → step s = .next t → t.wf = true ∧ t.cfg = s.cfg

/-- R24, R25, R29, R96: the fault registers and DIAG hold nothing, or one fault with its one record. -/
def Obligations.StepKeepsFaultRecord : Prop :=
  ∀ s t : State, s.faultsRecorded → step s = .next t → t.faultsRecorded

/-- R82, R99: no lane does anything before CHECK has passed. -/
def Obligations.StepKeepsCheckFirst : Prop :=
  ∀ s t : State, s.checkFirst → step s = .next t → t.checkFirst

/-- R91: every running lane holds `2^(k + W*s) mod 10^D`, its count and its batch position. (The spec marks R91 as
its own derivation.) -/
def Obligations.StepKeepsExponents : Prop :=
  ∀ s t : State, s.tracksExponents → step s = .next t → t.tracksExponents

/-- R45, R91, R92, R94: OUT stays an interleaving of the lanes' own record sequences, which the exponents determine.
(The spec marks R91, R92 and R94 as its own derivations.) -/
def Obligations.StepKeepsHistory : Prop :=
  ∀ s t : State, s.hasHistory → step s = .next t → t.hasHistory

/-- Every build's state right after RESET has all of these invariants. -/
def Obligations.ResetHasTheInvariants : Prop :=
  ∀ (c : Config) (v : Nat), c.legal = true →
    (State.resetOf c v).wf = true ∧ (State.resetOf c v).faultsRecorded ∧ (State.resetOf c v).checkFirst ∧
    (State.resetOf c v).tracksExponents ∧ (State.resetOf c v).hasHistory

/-! ### What a run shows -/

/-- R92: the Matches in OUT are exactly the all-even buffers among the exponents the lanes have tested, seeds
excluded. (The spec marks R92 as its own derivation.) -/
def Obligations.MatchesAreTheEvenTestedExponents : Prop :=
  ∀ s : State, s.isBuild = true → s.hasHistory →
    ∃ n : Nat → Nat,
      (∀ k : LaneIdx, k.toNat < s.cfg.w →
        ((s.lane k).phase = .init → n k.toNat = 0) ∧
        ((s.lane k).phase = .running → (s.lane k).cnt = BitVec.ofNat 64 (n k.toNat))) ∧
      ∀ b : Buffer, .matched b ∈ s.out ↔
        ∃ k m, k < s.cfg.w ∧ 1 ≤ m ∧ m ≤ n k ∧ b = enc s.cfg.d (2 ^ (k + s.cfg.w * m)) ∧ allEven b = true

/-- R94: the `j`-th Progress record of a lane counts `j` batches. (The spec marks R94 as its own derivation.) -/
def Obligations.ProgressRecordsCountBatches : Prop :=
  ∀ s : State, s.isBuild = true → s.hasHistory → ∀ k : LaneIdx, k.toNat < s.cfg.w →
    ∃ r, s.out.filter (OutRecord.isProgressOf k)
      = (List.range r).map fun j => .progress (BitVec.ofNat 64 ((j + 1) * s.cfg.batch)) k

/-- R88: with `D = 1` every STEP of a lane of a run emits a Match. -/
def Obligations.SingleDigitStepsAlwaysMatch : Prop :=
  ∀ (s : State) (k : LaneIdx), s.live = true → s.cfg.d = 1 → s.tracksExponents → k.toNat < s.cfg.w →
    s.guard (.step k) = true →
    ∃ t, exec (.step k) s = .next t ∧ t.out = s.out ++ [.matched (t.lane k).buf]

/-- R95: after `m` STEPs lane `k` holds exponent `k + W*m`; the states of `W` lanes over `K` states each, the seed
included, are exactly the exponents below `W*K`, one state for each. (The spec marks R95 as its own derivation.) -/
def Obligations.LanesCoverAllExponents : Prop :=
  ∀ c : Config, 1 ≤ c.w →
    (∀ k m, laneBuffer c k m = enc c.d (2 ^ (k + c.w * m))) ∧
    (∀ K k m, k < c.w → m < K → k + c.w * m < c.w * K) ∧
    (∀ K n, n < c.w * K → ∃! p : Nat × Nat, p.1 < c.w ∧ p.2 < K ∧ n = p.1 + c.w * p.2)

/-- R44: two operations of different lanes, each performed without a fault, can be performed in either order, with
the same state but for the order of what they append to OUT. (The spec marks R44 as its own derivation.) -/
def Obligations.LanesCommute : Prop :=
  ∀ (s a b : State) (i j : Instr) (x y : LaneIdx), x ≠ y → i.agent = .lane x → j.agent = .lane y →
    exec i s = .next a → a.corePh = .run → exec j s = .next b → b.corePh = .run →
    ∃ ab ba ri rj, exec j a = .next ab ∧ exec i b = .next ba ∧
      a.out = s.out ++ ri ∧ b.out = s.out ++ rj ∧
      ab.out = s.out ++ ri ++ rj ∧ ba.out = s.out ++ rj ++ ri ∧ ab = { ba with out := ab.out }

/-- R44: while the block runs, the end state is the same under every interleaving of the lanes' operation sequences;
only the order of the records in OUT depends on it. (The spec marks R44 as its own derivation.) -/
def Obligations.EndStateIgnoresInterleaving : Prop :=
  ∀ (s t : State) (is js : List Instr), s.corePh = .run →
    (∀ a : Agent, (is.filter fun i => i.agent = a) = js.filter fun j => j.agent = a) →
    execAll is s = some t →
    ∃ u, execAll js s = some u ∧ u = { t with out := u.out } ∧ u.out.Perm t.out

/-- R32: what RESET leaves unspecified is never read: states that differ only in `BUF`, `CNT` and `BPOS` of lanes
still INIT behave the same, up to those registers. (Log entry 3 names the values.) -/
def Obligations.UnspecifiedResetValuesAreNeverRead : Prop :=
  ∀ s s' : State, s.forgetUnseeded = s'.forgetUnseeded →
    outcomeView (step s) = outcomeView (step s') ∧ ∀ i, outcomeView (exec i s) = outcomeView (exec i s')

/-! ### The output lines and the packed view -/

/-- R59: a Match line has `D + 1` bytes: the digits, most significant first, and `0x0A`. -/
def Obligations.MatchLineFormat : Prop :=
  ∀ b : Buffer,
    (matchLine b).length = b.length + 1 ∧
    (∀ j d, j < b.length → digitRead b (b.length - 1 - j) = some d →
      (matchLine b)[j]? = some (BitVec.ofNat 8 (0x30 + d.val))) ∧
    (matchLine b)[b.length]? = some 0x0A

/-- R60, R61: a Progress line is `Steps: `, the count, ` from `, the lane, and a line feed; and `dec(v)` is the
decimal numeral of `v`: ASCII digits of value `v`, no leading zero, `0` for 0, and at most 20 bytes for a count and
2 for a lane. -/
def Obligations.ProgressLinePrintsMinimalNumerals : Prop :=
  (∀ (c : Count) (k : LaneIdx),
    progressLine c k = [0x53, 0x74, 0x65, 0x70, 0x73, 0x3A, 0x20] ++ dec c.toNat ++ [0x20, 0x66, 0x72, 0x6F, 0x6D, 0x20]
      ++ dec k.toNat ++ [0x0A] ∧
    (dec c.toNat).length ≤ 20 ∧ (dec k.toNat).length ≤ 2) ∧
  (∀ v : Nat,
    (∀ x ∈ dec v, 0x30 ≤ x.toNat ∧ x.toNat ≤ 0x39) ∧
    (dec v).foldl (fun a x => 10 * a + (x.toNat - 0x30)) 0 = v ∧
    1 ≤ (dec v).length ∧ (v ≠ 0 → (dec v).head? ≠ some 0x30)) ∧
  dec 0 = [0x30]

/-- R37, R51, R52: the packed view holds digit `i` as its 4-bit code at bits `[4i+3:4i]`; unpacking gives the buffer
back, gives only what packs to its argument, and refuses a view with a code of 10 to 15. -/
def Obligations.PackedViewRoundTrips : Prop :=
  (∀ (b : Buffer) (i : Nat) (d : Digit), digitRead b i = some d →
    (packed b.length b).extractLsb' (4 * i) 4 = BitVec.ofNat 4 d.val) ∧
  (∀ b : Buffer, unpack b.length (packed b.length b) = some b) ∧
  (∀ (d : Nat) (v : BitVec (4 * d)) (b : Buffer), unpack d v = some b → b.length = d ∧ packed d b = v) ∧
  (∀ (d : Nat) (v : BitVec (4 * d)) (i : Nat), i < d → 10 ≤ (v.extractLsb' (4 * i) 4).toNat → unpack d v = none)

/-! ### The machine of a build -/

/-- R5: with the build parameters as the argument of the machine, and no part of its state, an operation, a step and
RESET are what they are with the parameters carried beside the block, in every build. That the host's interface
carries them is the model's choice (log entry 1). -/
def Obligations.BuildIsAnArgument : Prop :=
  ∀ (c : Config) (v : Nat) (b : Block),
    (∀ i, exec i (b.inBuild c) = inBuildOutcome c (buildExec c i b)) ∧
    step (b.inBuild c) = inBuildOutcome c ((machine c v).step b) ∧
    State.resetOf c v = Block.inBuild (machine c v).reset c ∧
    (c.legal = false → (machine c v).step b = .refused .notABuild)

/-- R5: a whole run of the host's machine from a state of build `c` is the run of the machine of build `c`: the
parameters are fixed for the life of a run. That the host's interface carries them beside the block is the model's
choice (log entry 1). -/
def Obligations.RunsAreTheBuildsRuns : Prop :=
  ∀ (c : Config) (v n : Nat) (b : Block),
    Sys2Proof.core.run n (b.inBuild c) = inBuildOutcome c ((machine c v).run n b)
end

