-- ==== Sys2Proof/Laws/Build.lean ====
section
/-! SUPPORT. A block and its build: putting the argument beside the block and taking it off. -/

namespace Sys2Proof.Machine

open Sys2Proof

@[simp] theorem inBuild_toBlock (b : Block) (c : Config) : (b.inBuild c).toBlock = b := rfl

@[simp] theorem inBuild_cfg (b : Block) (c : Config) : (b.inBuild c).cfg = c := rfl

/-- A state is its block in its build. -/
@[simp] theorem toBlock_inBuild (s : State) : s.toBlock.inBuild s.cfg = s := rfl

@[simp] theorem buildReset_inBuild (c : Config) (v : Nat) : (buildReset c v).inBuild c = State.resetOf c v := rfl

/-- The machine of a build sees the next state's block, and the same stops. -/
theorem blockOutcome_next {o : Host.Outcome State Fault Refusal} {b : Block} :
    blockOutcome o = .next b ↔ ∃ s, o = .next s ∧ s.toBlock = b := by
  cases o <;> simp [blockOutcome]

/-- Where every next state is one of build `c`, taking the build off and putting it back changes no outcome. -/
theorem inBuildOutcome_blockOutcome {c : Config} {o : Host.Outcome State Fault Refusal}
    (h : ∀ s, o = .next s → s.cfg = c) : inBuildOutcome c (blockOutcome o) = o := by
  cases o with
  | next s => obtain rfl := h s rfl; rfl
  | fault f => rfl
  | refused r => rfl

end Sys2Proof.Machine
end

