-- ==== Sys2Proof/Laws/Multiplier.lean ====
section
/-! SUPPORT. The small lemmas of buffers and of the pass, and that every operation on a digit space keeps its canonical
form (R16). -/

namespace Sys2Proof.Machine

open Sys2Proof

@[simp] theorem digitOf_val (v : Nat) : (digitOf v).val = v % 10 := rfl

@[simp] theorem val_nil : val [] = 0 := rfl

@[simp] theorem val_cons (d : Digit) (ds : Buffer) : val (d :: ds) = d.val + 10 * val ds := rfl

@[simp] theorem enc_zero (v : Nat) : enc 0 v = [] := rfl

/-- The digits of `v`, from the least significant one on. -/
theorem enc_succ (d v : Nat) : enc (d + 1) v = digitOf v :: enc d (v / 10) := by
  simp only [enc, List.range_succ_eq_map, List.map_cons, List.map_map, pow_zero, Nat.div_one, List.cons.injEq, true_and]
  refine List.map_congr_left fun i _ => ?_
  simp [Nat.pow_succ', Nat.div_div_eq_div_mul]

@[simp] theorem enc_length (d v : Nat) : (enc d v).length = d := by simp [enc]

@[simp] theorem allEven_nil : allEven [] = true := rfl

@[simp] theorem allEven_cons (d : Digit) (ds : Buffer) : allEven (d :: ds) = (even d && allEven ds) := rfl

theorem even_iff (d : Digit) : even d = true ↔ d.val % 2 = 0 := by simp [even]

@[simp] theorem passFrom_nil (f c : Nat) (p : Bool) :
    passFrom f c p [] = { buf := [], carry := c, parity := p } := rfl

/-- One position of the pass. -/
theorem passFrom_cons (f c : Nat) (p : Bool) (d : Digit) (ds : Buffer) :
    passFrom f c p (d :: ds) =
      { buf := (cell f d c).1 :: (passFrom f (cell f d c).2 (p && even (cell f d c).1) ds).buf
        carry := (passFrom f (cell f d c).2 (p && even (cell f d c).1) ds).carry
        parity := (passFrom f (cell f d c).2 (p && even (cell f d c).1) ds).parity } := rfl

/-- The pass keeps the number of digits (R16). -/
@[simp] theorem passFrom_length (f c : Nat) (p : Bool) (b : Buffer) : (passFrom f c p b).buf.length = b.length := by
  induction b generalizing c p with
  | nil => rfl
  | cons d ds ih => simp [passFrom_cons, ih]

@[simp] theorem mulPass_length (f : Nat) (b : Buffer) : (mulPass f b).1.length = b.length :=
  passFrom_length f 0 true b

theorem memory_wf_iff (d : Nat) (b : Buffer) : Memory.wf d b = true ↔ b.length = d := by simp [Memory.wf]

/-- A digit read after a write to the same cell is the digit written. -/
theorem digitRead_digitWrite_self (b : Buffer) (i : Nat) (d : Digit) (h : i < b.length) :
    digitRead (digitWrite b i d) i = some d := by
  simp [digitRead, digitWrite, h]

/-- A digit write leaves every other cell as it was. -/
theorem digitRead_digitWrite_other (b : Buffer) (i j : Nat) (d : Digit) (h : i ≠ j) :
    digitRead (digitWrite b i d) j = digitRead b j := by
  simp [digitRead, digitWrite, h]

/-! ### Every operation on a digit space keeps its canonical form -/

theorem digitWrite_keeps_wf (d : Nat) (b : Buffer) (i : Nat) (x : Digit) (h : Memory.wf d b = true) :
    Memory.wf d (digitWrite b i x) = true := by
  simpa [memory_wf_iff, digitWrite] using h

theorem mulPass_keeps_wf (d f : Nat) (b : Buffer) (h : Memory.wf d b = true) : Memory.wf d (mulPass f b).1 = true := by
  simpa [memory_wf_iff] using h

theorem enc_wf (d v : Nat) : Memory.wf d (enc d v) = true := by simp [memory_wf_iff]

theorem laneReset_wf (c : Config) : Memory.wf c.d (Lane.reset c).buf = true := by simp [memory_wf_iff, Lane.reset]

theorem seededLane_wf (c : Config) (k : LaneIdx) : Memory.wf c.d (seededLane c k).buf = true := enc_wf _ _

theorem steppedLane_wf (c : Config) (l : Lane) (h : Memory.wf c.d l.buf = true) :
    Memory.wf c.d (steppedLane c l).buf = true := mulPass_keeps_wf _ _ _ h

/-- The digit spaces of the state right after reset have their form. -/
theorem reset_memory_wf : ∀ l ∈ State.reset.lanes, Memory.wf State.reset.cfg.d l.buf = true := by
  intro l hl
  rw [List.eq_of_mem_replicate hl]
  exact laneReset_wf _

end Sys2Proof.Machine
end

