-- ==== Sys2Proof/Laws/State.lean ====
section
/-! SUPPORT. What each named operation leaves in each field of the state, and what reading a lane gives afterwards. -/

namespace Sys2Proof.Machine

open Sys2Proof

/-! ### Writing a lane -/

@[simp] theorem setLane_cfg (s : State) (k : LaneIdx) (l : Lane) :
    (s.setLane k l).cfg = s.cfg := rfl

@[simp] theorem setLane_wEnv (s : State) (k : LaneIdx) (l : Lane) :
    (s.setLane k l).wEnv = s.wEnv := rfl

@[simp] theorem setLane_corePh (s : State) (k : LaneIdx) (l : Lane) :
    (s.setLane k l).corePh = s.corePh := rfl

@[simp] theorem setLane_faultCause (s : State) (k : LaneIdx) (l : Lane) :
    (s.setLane k l).faultCause = s.faultCause := rfl

@[simp] theorem setLane_faultOp (s : State) (k : LaneIdx) (l : Lane) :
    (s.setLane k l).faultOp = s.faultOp := rfl

@[simp] theorem setLane_lanes (s : State) (k : LaneIdx) (l : Lane) :
    (s.setLane k l).lanes = s.lanes.set (laneOperand k) l := rfl

@[simp] theorem setLane_out (s : State) (k : LaneIdx) (l : Lane) :
    (s.setLane k l).out = s.out := rfl

@[simp] theorem setLane_diag (s : State) (k : LaneIdx) (l : Lane) :
    (s.setLane k l).diag = s.diag := rfl

@[simp] theorem setLane_stopped (s : State) (k : LaneIdx) (l : Lane) :
    (s.setLane k l).stopped = s.stopped := rfl

@[simp] theorem setLane_inputs (s : State) (k : LaneIdx) (l : Lane) :
    (s.setLane k l).inputs = s.inputs := rfl

@[simp] theorem setLane_turns (s : State) (k : LaneIdx) (l : Lane) :
    (s.setLane k l).turns = s.turns := rfl

/-! ### Appending to OUT (R28) -/

@[simp] theorem emit_cfg (s : State) (rs : List OutRecord) :
    (s.emit rs).cfg = s.cfg := rfl

@[simp] theorem emit_wEnv (s : State) (rs : List OutRecord) :
    (s.emit rs).wEnv = s.wEnv := rfl

@[simp] theorem emit_corePh (s : State) (rs : List OutRecord) :
    (s.emit rs).corePh = s.corePh := rfl

@[simp] theorem emit_faultCause (s : State) (rs : List OutRecord) :
    (s.emit rs).faultCause = s.faultCause := rfl

@[simp] theorem emit_faultOp (s : State) (rs : List OutRecord) :
    (s.emit rs).faultOp = s.faultOp := rfl

@[simp] theorem emit_lanes (s : State) (rs : List OutRecord) :
    (s.emit rs).lanes = s.lanes := rfl

@[simp] theorem emit_out (s : State) (rs : List OutRecord) :
    (s.emit rs).out = s.out ++ rs := rfl

@[simp] theorem emit_diag (s : State) (rs : List OutRecord) :
    (s.emit rs).diag = s.diag := rfl

@[simp] theorem emit_stopped (s : State) (rs : List OutRecord) :
    (s.emit rs).stopped = s.stopped := rfl

@[simp] theorem emit_inputs (s : State) (rs : List OutRecord) :
    (s.emit rs).inputs = s.inputs := rfl

@[simp] theorem emit_turns (s : State) (rs : List OutRecord) :
    (s.emit rs).turns = s.turns := rfl

/-! ### The fault action (R98) -/

@[simp] theorem raise_cfg (s : State) (c : FaultCause) (op : OpWord) (wenv : Option Nat) :
    (s.raise c op wenv).cfg = s.cfg := rfl

@[simp] theorem raise_wEnv (s : State) (c : FaultCause) (op : OpWord) (wenv : Option Nat) :
    (s.raise c op wenv).wEnv = s.wEnv := rfl

@[simp] theorem raise_corePh (s : State) (c : FaultCause) (op : OpWord) (wenv : Option Nat) :
    (s.raise c op wenv).corePh = .fatal := rfl

@[simp] theorem raise_faultCause (s : State) (c : FaultCause) (op : OpWord) (wenv : Option Nat) :
    (s.raise c op wenv).faultCause = c.code := rfl

@[simp] theorem raise_faultOp (s : State) (c : FaultCause) (op : OpWord) (wenv : Option Nat) :
    (s.raise c op wenv).faultOp = op := rfl

@[simp] theorem raise_lanes (s : State) (c : FaultCause) (op : OpWord) (wenv : Option Nat) :
    (s.raise c op wenv).lanes = s.lanes := rfl

@[simp] theorem raise_out (s : State) (c : FaultCause) (op : OpWord) (wenv : Option Nat) :
    (s.raise c op wenv).out = s.out := rfl

@[simp] theorem raise_diag (s : State) (c : FaultCause) (op : OpWord) (wenv : Option Nat) :
    (s.raise c op wenv).diag = s.diag ++ [{ cause := c.code, op := op, wenv := wenv, w := s.cfg.w }] := rfl

@[simp] theorem raise_stopped (s : State) (c : FaultCause) (op : OpWord) (wenv : Option Nat) :
    (s.raise c op wenv).stopped = s.stopped := rfl

@[simp] theorem raise_inputs (s : State) (c : FaultCause) (op : OpWord) (wenv : Option Nat) :
    (s.raise c op wenv).inputs = s.inputs := rfl

@[simp] theorem raise_turns (s : State) (c : FaultCause) (op : OpWord) (wenv : Option Nat) :
    (s.raise c op wenv).turns = s.turns := rfl

/-! ### RESET (R112) -/

@[simp] theorem resetRun_cfg (s : State) (v : Nat) (rest : List Input) :
    (s.resetRun v rest).cfg = s.cfg := rfl

@[simp] theorem resetRun_wEnv (s : State) (v : Nat) (rest : List Input) :
    (s.resetRun v rest).wEnv = v := rfl

@[simp] theorem resetRun_corePh (s : State) (v : Nat) (rest : List Input) :
    (s.resetRun v rest).corePh = .unchecked := rfl

@[simp] theorem resetRun_faultCause (s : State) (v : Nat) (rest : List Input) :
    (s.resetRun v rest).faultCause = 0 := rfl

@[simp] theorem resetRun_faultOp (s : State) (v : Nat) (rest : List Input) :
    (s.resetRun v rest).faultOp = 0x00 := rfl

@[simp] theorem resetRun_lanes (s : State) (v : Nat) (rest : List Input) :
    (s.resetRun v rest).lanes = List.replicate s.cfg.w (Lane.reset s.cfg) := rfl

@[simp] theorem resetRun_out (s : State) (v : Nat) (rest : List Input) :
    (s.resetRun v rest).out = [] := rfl

@[simp] theorem resetRun_diag (s : State) (v : Nat) (rest : List Input) :
    (s.resetRun v rest).diag = [] := rfl

@[simp] theorem resetRun_stopped (s : State) (v : Nat) (rest : List Input) :
    (s.resetRun v rest).stopped = false := rfl

@[simp] theorem resetRun_inputs (s : State) (v : Nat) (rest : List Input) :
    (s.resetRun v rest).inputs = rest := rfl

@[simp] theorem resetRun_turns (s : State) (v : Nat) (rest : List Input) :
    (s.resetRun v rest).turns = s.turns := rfl

/-! ### The operations of a lane's registers -/

@[simp] theorem laneReset_phase (c : Config) : (Lane.reset c).phase = .init := rfl

@[simp] theorem seededLane_phase (c : Config) (k : LaneIdx) : (seededLane c k).phase = .running := rfl

@[simp] theorem seededLane_buf (c : Config) (k : LaneIdx) : (seededLane c k).buf = enc c.d (2 ^ k.toNat) := rfl

@[simp] theorem seededLane_cnt (c : Config) (k : LaneIdx) : (seededLane c k).cnt = 0 := rfl

@[simp] theorem seededLane_bpos (c : Config) (k : LaneIdx) : (seededLane c k).bpos = 0 := rfl

@[simp] theorem steppedLane_phase (c : Config) (l : Lane) : (steppedLane c l).phase = l.phase := rfl

@[simp] theorem steppedLane_buf (c : Config) (l : Lane) : (steppedLane c l).buf = (mulPass c.f l.buf).1 := rfl

@[simp] theorem steppedLane_cnt (c : Config) (l : Lane) : (steppedLane c l).cnt = l.cnt + 1 := rfl

@[simp] theorem steppedLane_bpos (c : Config) (l : Lane) : (steppedLane c l).bpos = l.bpos + 1 := rfl

/-! ### Derived reads -/

/-- Reading the lane just written, in a state that has it. -/
theorem lane_setLane_self (s : State) (k : LaneIdx) (l : Lane) (h : k.toNat < s.lanes.length) :
    (s.setLane k l).lane k = l := by
  simp [State.lane, List.getD, h]

/-- Writing one lane leaves every other lane as it was (R42, R109). -/
theorem lane_setLane_other (s : State) (j k : LaneIdx) (l : Lane) (h : j ≠ k) :
    (s.setLane k l).lane j = s.lane j := by
  have : k.toNat ≠ j.toNat := fun e => h (BitVec.eq_of_toNat_eq e).symm
  simp [State.lane, List.getD, this]

@[simp] theorem emit_lane (s : State) (rs : List OutRecord) (k : LaneIdx) : (s.emit rs).lane k = s.lane k := rfl

@[simp] theorem raise_lane (s : State) (c : FaultCause) (op : OpWord) (wenv : Option Nat) (k : LaneIdx) :
    (s.raise c op wenv).lane k = s.lane k := rfl

@[simp] theorem setLane_isBuild (s : State) (k : LaneIdx) (l : Lane) : (s.setLane k l).isBuild = s.isBuild := by
  simp [State.isBuild]

@[simp] theorem emit_isBuild (s : State) (rs : List OutRecord) : (s.emit rs).isBuild = s.isBuild := rfl

@[simp] theorem raise_isBuild (s : State) (c : FaultCause) (op : OpWord) (wenv : Option Nat) :
    (s.raise c op wenv).isBuild = s.isBuild := rfl

@[simp] theorem raise_halted (s : State) (c : FaultCause) (op : OpWord) (wenv : Option Nat) :
    (s.raise c op wenv).halted = true := by
  simp [State.halted]

/-- What being a build says: the legal values of R5 and one record of registers per lane (R109). -/
theorem isBuild_iff (s : State) :
    s.isBuild = true ↔ (1 ≤ s.cfg.d ∧ 1 ≤ s.cfg.batch ∧ 1 ≤ s.cfg.w ∧ s.cfg.w ≤ 16) ∧ s.lanes.length = s.cfg.w := by
  simp [State.isBuild, Config.legal, and_assoc]

/-- A lane of the build is a member of the list of lanes. -/
theorem lane_mem (s : State) (k : LaneIdx) (h : k.toNat < s.lanes.length) : s.lane k ∈ s.lanes := by
  simp [State.lane, List.getD, h]

/-- After RESET every lane reads as reset. -/
@[simp] theorem resetRun_lane (s : State) (v : Nat) (rest : List Input) (k : LaneIdx) :
    (s.resetRun v rest).lane k = Lane.reset s.cfg := by
  simp only [State.lane, resetRun_lanes, resetRun_cfg, List.getD, List.getElem?_replicate]
  split <;> rfl

end Sys2Proof.Machine
end

