-- ==== Sys2Proof/Laws/Ops.lean ====
section
/-! SUPPORT. For each shared operation, and for the step, everything it can do when it answers a next state. -/

namespace Sys2Proof.Machine

open Sys2Proof

theorem live_iff (s : State) : s.live = true ↔ s.isBuild = true ∧ s.halted = false := by simp [State.live]

theorem halted_eq_false_iff (s : State) : s.halted = false ↔ s.stopped = false ∧ s.corePh ≠ .fatal := by
  simp [State.halted]

/-- In a live state an operation is its body. -/
theorem operate_live {s : State} (h : s.live = true) (o : Host.Outcome State Fault Refusal) : operate s o = o := by
  simp [operate, (live_iff s).1 h]

/-- An operation that answers a next state ran its body in a live state. -/
theorem operate_next {s t : State} {o : Host.Outcome State Fault Refusal} (h : operate s o = .next t) :
    s.live = true ∧ o = .next t := by
  unfold operate at h
  split at h
  · cases h
  · split at h
    · cases h
    · rename_i hb hh
      exact ⟨by simpa [live_iff] using And.intro (by simpa using hb) hh, h⟩

/-- All a lane operation can do (R81, R103). -/
theorem laneOperation_next {i : Instr} {k : LaneIdx} {g : Bool} {b s t : State}
    (h : laneOperation i k g b s = .next t) :
    s.live = true ∧
      ((s.cfg.w ≤ k.toNat ∧ t = s.raise .badLane (encode i) none) ∨
       (k.toNat < s.cfg.w ∧ s.corePh = .run ∧ g = true ∧ t = b) ∨
       (k.toNat < s.cfg.w ∧ ¬(s.corePh = .run ∧ g = true) ∧ t = s.raise .outOfSequence (encode i) none)) := by
  obtain ⟨hl, h⟩ := operate_next h
  refine ⟨hl, ?_⟩
  split at h
  · rename_i hk
    exact .inl ⟨hk, by cases h; rfl⟩
  · rename_i hk
    have hk : k.toNat < s.cfg.w := Nat.lt_of_not_le hk
    split at h
    · rename_i hg
      have hg : s.corePh = .run ∧ g = true := by simpa using hg
      exact .inr (.inl ⟨hk, hg.1, hg.2, by cases h; rfl⟩)
    · rename_i hg
      exact .inr (.inr ⟨hk, by simpa using hg, by cases h; rfl⟩)

/-- All CHECK can do (R86). -/
theorem execCheck_next {s t : State} (h : exec .check s = .next t) :
    s.live = true ∧
      ((s.corePh = .unchecked ∧ s.wEnv = s.cfg.w ∧ t = { s with corePh := .run }) ∨
       (s.corePh = .unchecked ∧ s.wEnv ≠ s.cfg.w ∧ t = s.raise .cfgMismatch (encode .check) (some s.wEnv)) ∨
       (s.corePh ≠ .unchecked ∧ t = s.raise .outOfSequence (encode .check) none)) := by
  obtain ⟨hl, h⟩ := operate_next h
  refine ⟨hl, ?_⟩
  split at h
  · rename_i hp
    have hp : s.corePh = .unchecked := by simpa using hp
    split at h
    · exact .inl ⟨hp, ‹_›, by cases h; rfl⟩
    · exact .inr (.inl ⟨hp, ‹_›, by cases h; rfl⟩)
  · rename_i hp
    exact .inr (.inr ⟨by simpa using hp, by cases h; rfl⟩)

/-- All an operation can do when it answers a next state: raise a fault (the last two cases), or its body. -/
theorem exec_next {i : Instr} {s t : State} (h : exec i s = .next t) :
    s.live = true ∧
      ((i = .check ∧ s.corePh = .unchecked ∧ s.wEnv = s.cfg.w ∧ t = { s with corePh := .run }) ∨
       (∃ k, i = .seed k ∧ k.toNat < s.cfg.w ∧ s.corePh = .run ∧ (s.lane k).phase = .init ∧
          t = s.setLane k (seededLane s.cfg k)) ∨
       (∃ k, i = .step k ∧ k.toNat < s.cfg.w ∧ s.corePh = .run ∧ (s.lane k).phase = .running ∧
          (s.lane k).bpos < s.cfg.batch ∧
          t = (s.setLane k (steppedLane s.cfg (s.lane k))).emit (stepRecords s.cfg (s.lane k))) ∨
       (∃ k, i = .report k ∧ k.toNat < s.cfg.w ∧ s.corePh = .run ∧ (s.lane k).phase = .running ∧
          (s.lane k).bpos = s.cfg.batch ∧
          t = (s.setLane k { s.lane k with bpos := 0 }).emit [.progress (s.lane k).cnt k]) ∨
       (i = .check ∧ s.corePh = .unchecked ∧ s.wEnv ≠ s.cfg.w ∧
          t = s.raise .cfgMismatch (encode .check) (some s.wEnv)) ∨
       (∃ c, t = s.raise c (encode i) none ∧
          ((c = .badLane ∧ i.wellFormed s.cfg = false) ∨ (c = .outOfSequence ∧ i.wellFormed s.cfg = true)))) := by
  cases i with
  | check =>
    obtain ⟨hl, h | h | h⟩ := execCheck_next h
    · exact ⟨hl, .inl ⟨rfl, h⟩⟩
    · exact ⟨hl, .inr (.inr (.inr (.inr (.inl ⟨rfl, h⟩))))⟩
    · exact ⟨hl, .inr (.inr (.inr (.inr (.inr ⟨_, h.2, .inr ⟨rfl, rfl⟩⟩))))⟩
  | seed k =>
    obtain ⟨hl, h | h | h⟩ := laneOperation_next h
    · exact ⟨hl, .inr (.inr (.inr (.inr (.inr ⟨_, h.2, .inl ⟨rfl, by simpa [Instr.wellFormed] using h.1⟩⟩))))⟩
    · exact ⟨hl, .inr (.inl ⟨k, rfl, h.1, h.2.1, by simpa using h.2.2.1, h.2.2.2⟩)⟩
    · exact ⟨hl, .inr (.inr (.inr (.inr (.inr ⟨_, h.2.2, .inr ⟨rfl, by simpa [Instr.wellFormed] using h.1⟩⟩))))⟩
  | step k =>
    obtain ⟨hl, h | h | h⟩ := laneOperation_next h
    · exact ⟨hl, .inr (.inr (.inr (.inr (.inr ⟨_, h.2, .inl ⟨rfl, by simpa [Instr.wellFormed] using h.1⟩⟩))))⟩
    · have hg := h.2.2.1
      simp only [Bool.and_eq_true, beq_iff_eq, decide_eq_true_eq] at hg
      exact ⟨hl, .inr (.inr (.inl ⟨k, rfl, h.1, h.2.1, hg.1, hg.2, h.2.2.2⟩))⟩
    · exact ⟨hl, .inr (.inr (.inr (.inr (.inr ⟨_, h.2.2, .inr ⟨rfl, by simpa [Instr.wellFormed] using h.1⟩⟩))))⟩
  | report k =>
    obtain ⟨hl, h | h | h⟩ := laneOperation_next h
    · exact ⟨hl, .inr (.inr (.inr (.inr (.inr ⟨_, h.2, .inl ⟨rfl, by simpa [Instr.wellFormed] using h.1⟩⟩))))⟩
    · have hg := h.2.2.1
      simp only [Bool.and_eq_true, beq_iff_eq, decide_eq_true_eq] at hg
      exact ⟨hl, .inr (.inr (.inr (.inl ⟨k, rfl, h.1, h.2.1, hg.1, hg.2, h.2.2.2⟩)))⟩
    · exact ⟨hl, .inr (.inr (.inr (.inr (.inr ⟨_, h.2.2, .inr ⟨rfl, by simpa [Instr.wellFormed] using h.1⟩⟩))))⟩

/-- Decoding answers an operation only for a lane of the build (R58). -/
theorem decode_instr_wellFormed {c : Config} {w : OpWord} {i : Instr} (h : decode c w = .instr i) :
    i.wellFormed c = true := by
  unfold decode at h
  split at h
  · cases h
  · split at h
    · cases h; assumption
    · cases h

/-- The sequencers give only operations of the build (R82, R83). -/
theorem nextOp_wellFormed {s : State} {a : Agent} {i : Instr} (h : s.nextOp a = some i) : i.wellFormed s.cfg = true := by
  cases a with
  | controller =>
    simp only [State.nextOp] at h
    split at h
    · cases h; rfl
    · cases h
  | lane k =>
    simp only [State.nextOp] at h
    split at h
    · rename_i hk
      simp only [Bool.and_eq_true, decide_eq_true_eq] at hk
      cases h
      unfold State.nextLaneOp
      split
      · simpa [Instr.wellFormed] using hk.2
      · split <;> simpa [Instr.wellFormed] using hk.2
    · cases h

/-- All a word of a trace can do (R65, R81). -/
theorem performWord_next {w : OpWord} {s t : State} (h : performWord w s = .next t) :
    (∃ i, decode s.cfg w = .instr i ∧ exec i s = .next t) ∨
    (s.live = true ∧ decode s.cfg w = .illegal w ∧ t = s.raise .illegalOp w none) ∨
    (s.live = true ∧ decode s.cfg w = .badLane w ∧ t = s.raise .badLane w none) := by
  unfold performWord at h
  split at h
  · exact .inl ⟨_, ‹_›, h⟩
  · rename_i w' hd
    have hw : w' = w := by
      unfold decode at hd
      split at hd
      · cases hd; rfl
      · split at hd <;> cases hd
    subst hw
    obtain ⟨hl, h⟩ := operate_next h
    exact .inr (.inl ⟨hl, hd, by cases h; rfl⟩)
  · rename_i w' hd
    have hw : w' = w := by
      unfold decode at hd
      split at hd
      · cases hd
      · split at hd <;> cases hd; rfl
    subst hw
    obtain ⟨hl, h⟩ := operate_next h
    exact .inr (.inr ⟨hl, hd, by cases h; rfl⟩)

/-- An autonomous step is the operation the chosen agent has next (R81, R85). -/
theorem takeTurn_next {n : Nat} {s t : State} (h : takeTurn n s = .next t) :
    ∃ i, s.nextOp (s.turnAgent n) = some i ∧ exec i s = .next t := by
  unfold takeTurn at h
  split at h
  · exact ⟨_, ‹_›, h⟩
  · cases h

/-- All a step can do when it answers a next state. -/
theorem step_next {s t : State} (h : step s = .next t) :
    s.isBuild = true ∧
      ((∃ v rest, t = s.resetRun v rest) ∨
       (s.halted = false ∧
         ((s.inputs = [] ∧ takeTurn (Config.freeTurn s.turns) { s with turns := s.turns + 1 } = .next t) ∨
          (∃ n rest, s.inputs = .turn n :: rest ∧ takeTurn n { s with inputs := rest } = .next t) ∨
          (∃ w rest, s.inputs = .word w :: rest ∧ performWord w { s with inputs := rest } = .next t) ∨
          (∃ rest, s.inputs = .stop :: rest ∧ t = { s with inputs := rest, stopped := true })))) := by
  unfold step advance at h
  split at h
  · cases h
  · rename_i hb
    have hb : s.isBuild = true := by simpa using hb
    refine ⟨hb, ?_⟩
    split at h
    · unfold awaitReset at h
      split at h
      · exact .inl ⟨_, _, by cases h; rfl⟩
      · cases h
    · rename_i hh
      have hh : s.halted = false := by simpa using hh
      unfold takeInput at h
      split at h
      · exact .inr ⟨hh, .inl ⟨‹_›, h⟩⟩
      · exact .inr ⟨hh, .inr (.inl ⟨_, _, ‹_›, h⟩)⟩
      · exact .inr ⟨hh, .inr (.inr (.inl ⟨_, _, ‹_›, h⟩))⟩
      · exact .inl ⟨_, _, by cases h; rfl⟩
      · exact .inr ⟨hh, .inr (.inr (.inr ⟨_, ‹_›, by cases h; rfl⟩))⟩

/-- The state an operation of a step starts from: only the model's own `inputs` and `turns` have moved. -/
@[simp] theorem lane_moved (s : State) (inp : List Input) (n : Nat) (k : LaneIdx) :
    ({ s with inputs := inp, turns := n } : State).lane k = s.lane k := rfl

/-- A step that answers a next state is a RESET, a STOP, an operation of the build, or the fault of a word that decodes to
none. -/
theorem step_operation {s t : State} (h : step s = .next t) :
    s.isBuild = true ∧
      ((∃ v rest, t = s.resetRun v rest) ∨
       (∃ rest, s.live = true ∧ t = { s with inputs := rest, stopped := true }) ∨
       (∃ inp n i, s.live = true ∧ i.wellFormed s.cfg = true ∧ exec i { s with inputs := inp, turns := n } = .next t) ∨
       (∃ inp n c w, s.live = true ∧ t = { s with inputs := inp, turns := n }.raise c w none ∧
          ((c = .illegalOp ∧ decode s.cfg w = .illegal w) ∨ (c = .badLane ∧ decode s.cfg w = .badLane w)))) := by
  obtain ⟨hb, h | ⟨hh, h⟩⟩ := step_next h
  · exact ⟨hb, .inl h⟩
  · have hl : s.live = true := (live_iff s).2 ⟨hb, hh⟩
    refine ⟨hb, .inr ?_⟩
    rcases h with ⟨-, h⟩ | ⟨n, rest, -, h⟩ | ⟨w, rest, -, h⟩ | ⟨rest, -, h⟩
    · obtain ⟨i, hi, he⟩ := takeTurn_next h
      exact .inr (.inl ⟨s.inputs, s.turns + 1, i, hl, nextOp_wellFormed hi, he⟩)
    · obtain ⟨i, hi, he⟩ := takeTurn_next h
      exact .inr (.inl ⟨rest, s.turns, i, hl, nextOp_wellFormed hi, he⟩)
    · obtain ⟨i, hd, he⟩ | ⟨-, hd, ht⟩ | ⟨-, hd, ht⟩ := performWord_next h
      · exact .inr (.inl ⟨rest, s.turns, i, hl, decode_instr_wellFormed hd, he⟩)
      · exact .inr (.inr ⟨rest, s.turns, _, w, hl, ht, .inl ⟨rfl, hd⟩⟩)
      · exact .inr (.inr ⟨rest, s.turns, _, w, hl, ht, .inr ⟨rfl, hd⟩⟩)
    · exact .inl ⟨rest, hl, h⟩

end Sys2Proof.Machine
end

