-- ==== Sys2Proof/Laws/PerInstr.lean ====
section
/-! SUPPORT. One lemma per operation: its word is covered by its own row of the opcode table, and by no other. -/

namespace Sys2Proof.Laws

open Sys2Proof

/-- Of the opcode table's rows (R54), the word of the operation is covered by the operation's own row alone. -/
def WordInOwnRow.Statement (i : Instr) : Prop := (opcodeRows.filter fun r => r.covers (encode i)) = [i.row]

theorem WordInOwnRow.check : WordInOwnRow.Statement .check := by
  unfold WordInOwnRow.Statement
  decide

theorem WordInOwnRow.seed (k : LaneIdx) : WordInOwnRow.Statement (.seed k) := by
  unfold WordInOwnRow.Statement
  revert k
  decide

theorem WordInOwnRow.step (k : LaneIdx) : WordInOwnRow.Statement (.step k) := by
  unfold WordInOwnRow.Statement
  revert k
  decide

theorem WordInOwnRow.report (k : LaneIdx) : WordInOwnRow.Statement (.report k) := by
  unfold WordInOwnRow.Statement
  revert k
  decide

end Sys2Proof.Laws
end

