-- ==== Sys2Proof/Tests/Slice0.lean ====
section
/-! SUPPORT. Tests: expected values are the spec's (95_test_vectors.md, named at each test), written out by hand; and for
every statement with hypotheses a concrete state and operands that meet them (`witness_<statement>`). -/

namespace Sys2Proof.Tests

open Sys2Proof Sys2Proof.Machine

/-! ### Checks that refuse -/

/-- Each check of R5 refuses an ill-formed build, and the bounds 1 and 16 of `W` pass. -/
theorem test_config_checks :
    Config.legal ⟨0, 4, 4⟩ = false ∧ Config.legal ⟨4, 0, 4⟩ = false ∧ Config.legal ⟨4, 17, 4⟩ = false ∧
    Config.legal ⟨4, 4, 0⟩ = false ∧ Config.legal ⟨1, 1, 1⟩ = true ∧ Config.legal ⟨4, 16, 4⟩ = true := by decide

/-- R55: each lane operation is ill-formed at lane `W`, well-formed below it. -/
theorem test_wellFormed_checks :
    (Instr.seed 4).wellFormed Config.reference = false ∧ (Instr.step 4).wellFormed Config.reference = false ∧
    (Instr.report 4).wellFormed Config.reference = false ∧ (Instr.report 3).wellFormed Config.reference = true := by decide

/-! ### Decoding: words written out bit by bit from R54 -/

theorem test_decode_check : decodeTableWord 8 0b00000000 = some .check := by decide

theorem test_decode_seed : decodeTableWord 8 0b00010101 = some (.seed 5) := by decide

theorem test_decode_step : decodeTableWord 8 0b00101111 = some (.step 15) := by decide

theorem test_decode_report : decodeTableWord 8 0b00110010 = some (.report 2) := by decide

/-- R56: the ends of the reserved ranges `0x01` to `0x0F` and `0x40` to `0xFF`. -/
theorem test_decode_reserved :
    decodeTableWord 8 0x01 = none ∧ decodeTableWord 8 0x0F = none ∧ decodeTableWord 8 0x40 = none ∧
    decodeTableWord 8 0xFF = none := by decide

/-- 2.10: with `W = 4` the word `25` is a bad lane. -/
theorem test_decode_bad_lane : decode Config.reference 0x25 = .badLane 0x25 := by decide

/-- The rows of the opcode table do not overlap. -/
theorem test_rows_disjoint : opcodeRows.Pairwise fun r q => ∀ w, (r.covers w && q.covers w) = false := by decide

/-! ### The multiplier -/

/-- 2.1 and 2.2: cells of the factors 16, 2, 32 and 65536. -/
theorem test_cell_rows :
    cell16 7 3 = (5, 11) ∧ cell16 9 15 = (9, 15) ∧ cell 2 5 0 = (0, 1) ∧ cell 32 9 31 = (9, 31) ∧
    cell 65536 9 65535 = (9, 65535) := by decide

/-- 2.3: `9999 * 16` leaves `9984` with carry 15, and `0625 * 16` leaves zeros, all even. -/
theorem test_pass_rows :
    mulPassCarry 16 [9, 9, 9, 9] = { buf := [4, 8, 9, 9], carry := 15, parity := false } ∧
    mulPassCarry 16 [5, 2, 6, 0] = { buf := [0, 0, 0, 0], carry := 1, parity := true } := by decide

/-- 2.4: `1000` is not all even, `0008` is. -/
theorem test_detector_rows : allEven [0, 0, 0, 1] = false ∧ allEven [8, 0, 0, 0] = true := by decide

/-! ### The operations, one step each -/

/-- A build with one lane, RUNNING, in the given registers. -/
def oneLane (d batch : Nat) (l : Lane) : State :=
  { State.resetOf ⟨d, 1, batch⟩ 1 with corePh := .run, lanes := [l] }

/-- Four lanes of the reference build, lane 0 in the given registers, the others INIT. -/
def fourLanes (l : Lane) : State :=
  { State.reset with corePh := .run, lanes := [l, Lane.reset ⟨4, 4, 4⟩, Lane.reset ⟨4, 4, 4⟩, Lane.reset ⟨4, 4, 4⟩] }

/-- 2.9: `W = 4`, `W_ENV = 4`. -/
theorem test_check_passes : (nextState? (exec .check State.reset)).map (·.corePh) = some .run := by decide

/-- 2.9: `W = 4`, `W_ENV = 3`. -/
theorem test_check_mismatch :
    (nextState? (exec .check (State.resetOf Config.reference 3))).map (fun s => (s.corePh, s.faultCause, s.faultOp, s.diag))
      = some (.fatal, 1, 0x00, [{ cause := 1, op := 0x00, wenv := some 3, w := 4 }]) := by decide

/-- 2.5: lane 3 is seeded with `0008`. -/
theorem test_seed_lane3 :
    (nextState? (exec (.seed 3) { State.reset with corePh := .run })).map (·.lane 3)
      = some { phase := .running, buf := [8, 0, 0, 0], cnt := 0, bpos := 0 } := by decide

/-- 2.5: with `D = 1`, `W = 5`, lane 4 is seeded with `16 mod 10`. -/
theorem test_seed_truncates :
    (nextState? (exec (.seed 4) { State.resetOf ⟨1, 5, 1⟩ 5 with corePh := .run })).map (fun s => (s.lane 4).buf)
      = some [6] := by decide

/-- 2.6: `0128` becomes `2048`, a Match. -/
theorem test_step_matches :
    (nextState? (exec (.step 0) (fourLanes { phase := .running, buf := [8, 2, 1, 0], cnt := 1, bpos := 1 }))).map
        (fun s => (s.lane 0, s.out))
      = some ({ phase := .running, buf := [8, 4, 0, 2], cnt := 2, bpos := 2 }, [.matched [8, 4, 0, 2]]) := by decide

/-- 2.6: the counter wraps, `4096` becomes `5536`, no Match. -/
theorem test_step_wraps :
    (nextState? (exec (.step 0)
        (fourLanes { phase := .running, buf := [6, 9, 0, 4], cnt := 0xFFFFFFFFFFFFFFFF, bpos := 3 }))).map
        (fun s => (s.lane 0, s.out))
      = some ({ phase := .running, buf := [6, 3, 5, 5], cnt := 0, bpos := 4 }, []) := by decide

/-- R89's corner: with `BATCH = 1` a REPORT follows each STEP. -/
theorem test_report_record :
    (nextState? (exec (.report 0) (oneLane 1 1 { phase := .running, buf := [8], cnt := 8, bpos := 1 }))).map
        (fun s => ((s.lane 0).bpos, s.out))
      = some (0, [.progress 8 0]) := by decide

/-- 2.10: RUN, lane 0 below its batch's end: REPORT is out of sequence. -/
theorem test_report_early :
    (nextState? (exec (.report 0) (fourLanes { phase := .running, buf := [1, 0, 0, 0], cnt := 0, bpos := 0 }))).map
        (fun s => (s.faultCause, s.faultOp, s.lane 0))
      = some (4, 0x30, { phase := .running, buf := [1, 0, 0, 0], cnt := 0, bpos := 0 }) := by decide

/-! ### The step -/

/-- 2.10, from reset: `40` is ILLEGAL_OP, and `25` is BAD_LANE, not OUT_OF_SEQUENCE. -/
theorem test_words_fault :
    (nextState? (step (State.reset.withFetchWord 8 0x40))).map (fun s => (s.faultCause, s.faultOp)) = some (2, 0x40) ∧
    (nextState? (step (State.reset.withFetchWord 8 0x25))).map (fun s => (s.faultCause, s.faultOp)) = some (3, 0x25) := by
  decide

/-- R101: a RESET after words that a FATAL block does not perform starts a new run with its `W_ENV`. -/
theorem test_reset_of_fatal :
    (nextState? (step { State.reset with corePh := .fatal, inputs := [.word 0x10, .reset 7, .turn 0] })).map
        (fun s => (s.corePh, s.wEnv, s.inputs))
      = some (.unchecked, 7, [.turn 0]) := by decide

/-- The machine of a build with 3 digits and 2 lanes, its parameters no part of its state: CHECK passes, and the `0x00` of
a host that presents 3 is CFG_MISMATCH (R5, R86). -/
theorem test_machine_of_build :
    buildStep ⟨3, 2, 5⟩ { buildReset ⟨3, 2, 5⟩ 2 with inputs := [.word 0x00] }
      = .next { buildReset ⟨3, 2, 5⟩ 2 with corePh := .run } ∧
    buildExec ⟨3, 2, 5⟩ .check (buildReset ⟨3, 2, 5⟩ 3)
      = .next { buildReset ⟨3, 2, 5⟩ 3 with corePh := .fatal, faultCause := 1, diag := [⟨1, 0x00, some 3, 2⟩] } := ⟨rfl, rfl⟩

/-! ### Output and trace syntax -/

/-- 2.8: the line of `2048`. -/
theorem test_match_line : matchLine [8, 4, 0, 2] = [0x32, 0x30, 0x34, 0x38, 0x0A] := by decide

/-- 2.7: the line of count 8, lane 2. -/
theorem test_progress_line :
    progressLine 8 2 = [0x53, 0x74, 0x65, 0x70, 0x73, 0x3A, 0x20, 0x38, 0x20, 0x66, 0x72, 0x6F, 0x6D, 0x20, 0x32, 0x0A] := by
  decide

/-- R37: the packed view of `2048`, and a code above 9 refused (R52). -/
theorem test_packed : packed 4 [8, 4, 0, 2] = 0x2048 ∧ unpack 1 0xA = none := by decide

/-- R63, R64: a line with a comment, a pseudo-operation, a lane number above 15, an unknown mnemonic. -/
theorem test_assembler :
    assembleLine ⟨4, 2, 3⟩ ['s', 't', 'e', 'p', ' ', '1', '5', ' ', ';', 'x'] = some [0x2F] ∧
    assembleLine ⟨4, 2, 3⟩ ['b', 'o', 'o', 't'] = some [0x00, 0x10, 0x11] ∧
    assembleLine ⟨4, 2, 3⟩ ['b', 'a', 't', 'c', 'h', ' ', '1'] = some [0x21, 0x21, 0x21, 0x31] ∧
    assembleLine ⟨4, 2, 3⟩ ['s', 't', 'e', 'p', ' ', '1', '6'] = none ∧
    assembleLine ⟨4, 2, 3⟩ ['n', 'o', 'p'] = none := by decide

/-! ### Witnesses: the hypotheses of the statements can be met -/

/-- A lane of a `D = 1`, `BATCH = 1`, `W = 1` build, RUNNING, just seeded. -/
def seeded1 : Lane := { phase := .running, buf := [1], cnt := 0, bpos := 0 }

/-- The same lane after its first STEP. -/
def stepped1 : Lane := { phase := .running, buf := [2], cnt := 1, bpos := 1 }

/-- A two-lane build that runs, both lanes INIT. -/
def twoInit : State := { State.resetOf ⟨1, 2, 1⟩ 2 with corePh := .run }

theorem witness_DecodeAndEncodeAgree :
    (Instr.seed 3).wellFormed Config.reference = true ∧ decode Config.reference 0x13 = .instr (.seed 3) := by decide

theorem witness_DecodingFollowsItsTests :
    ((0x00 : OpWord).toNat / 16 = 0 ∧ (0x00 : OpWord).toNat % 16 = 0) ∧
    ((0x0F : OpWord).toNat / 16 = 0 ∧ (0x0F : OpWord).toNat % 16 ≠ 0) ∧
    ((0x34 : OpWord).toNat / 16 = 3 ∧ Config.reference.w ≤ (0x34 : OpWord).toNat % 16) ∧
    ((0x13 : OpWord).toNat / 16 = 1 ∧ (0x13 : OpWord).toNat % 16 < Config.reference.w) ∧
    ((0x23 : OpWord).toNat / 16 = 2 ∧ (0x23 : OpWord).toNat % 16 < Config.reference.w) ∧
    ((0x33 : OpWord).toNat / 16 = 3 ∧ (0x33 : OpWord).toNat % 16 < Config.reference.w) ∧
    4 ≤ (0x40 : OpWord).toNat / 16 := by decide

theorem witness_CellCarryStaysBelowFactor : (15 : Nat) < 16 := by decide

theorem witness_PassCarryInvariant :
    (1 : Nat) ≤ 16 ∧ 0 ≤ ([9, 9, 9, 9] : Buffer).length ∧ 4 ≤ ([9, 9, 9, 9] : Buffer).length := by decide

theorem witness_PassCornerCases :
    10 ^ ([5, 2, 6, 0] : Buffer).length ∣ 16 * val [5, 2, 6, 0] ∧ (1 : Nat) ≤ 16 ∧ 16 < 10 ^ 2 ∧ (1 : Nat) ≤ 1 := by decide

theorem witness_MatchMeansLowDigitsEven : 2 ^ 3 < 10 ^ 1 ∧ allEven (enc 1 (2 ^ 0)) = false := by decide

theorem witness_CheckPassesIntoRun :
    State.reset.live = true ∧ State.reset.corePh = .unchecked ∧ State.reset.wEnv = State.reset.cfg.w := by decide

theorem witness_CheckMismatchHalts :
    (State.resetOf Config.reference 5).live = true ∧ (State.resetOf Config.reference 5).corePh = .unchecked ∧
    (State.resetOf Config.reference 5).wEnv ≠ (State.resetOf Config.reference 5).cfg.w := by decide

theorem witness_SeedInitialisesItsLane :
    twoInit.live = true ∧ twoInit.corePh = .run ∧ (1 : LaneIdx).toNat < twoInit.cfg.w ∧
    (twoInit.lane 1).phase = .init := by decide

theorem witness_StepMultipliesAndDetects :
    (oneLane 1 1 seeded1).live = true ∧ (oneLane 1 1 seeded1).corePh = .run ∧
    (0 : LaneIdx).toNat < (oneLane 1 1 seeded1).cfg.w ∧ ((oneLane 1 1 seeded1).lane 0).phase = .running ∧
    ((oneLane 1 1 seeded1).lane 0).bpos < (oneLane 1 1 seeded1).cfg.batch := by decide

/-- The two outcomes of the flag in `StepMultipliesAndDetects`: `1 * 2` all even, and `5 * 2` in two digits, `10`, not. -/
theorem witness_StepMultipliesAndDetects_flag :
    (∀ d ∈ (mulPass 2 [1]).1, d.val % 2 = 0) ∧ (∃ d ∈ (mulPass 2 [5, 0]).1, d.val % 2 = 1) := by decide

theorem witness_ReportEmitsAndRestartsBatch :
    (oneLane 1 1 stepped1).live = true ∧ (oneLane 1 1 stepped1).corePh = .run ∧
    (0 : LaneIdx).toNat < (oneLane 1 1 stepped1).cfg.w ∧ ((oneLane 1 1 stepped1).lane 0).phase = .running ∧
    ((oneLane 1 1 stepped1).lane 0).bpos = (oneLane 1 1 stepped1).cfg.batch := by decide

theorem witness_EveryOperationChangesState :
    (Instr.check).wellFormed State.reset.cfg = true ∧ State.reset.guard .check = true ∧
    exec .check State.reset = .next { State.reset with corePh := .run } := ⟨by decide, by decide, rfl⟩

theorem witness_GuardFailureIsOutOfSequence :
    twoInit.live = true ∧ twoInit.guard .check = false ∧ (oneLane 1 1 seeded1).live = true ∧
    (oneLane 1 1 seeded1).guard (.seed 0) = false ∧ (oneLane 1 1 stepped1).live = true ∧
    (oneLane 1 1 stepped1).guard (.step 0) = false ∧ (oneLane 1 1 seeded1).guard (.report 0) = false ∧
    (Instr.seed 0).wellFormed ⟨1, 1, 1⟩ = true ∧ (Instr.step 0).wellFormed ⟨1, 1, 1⟩ = true ∧
    (Instr.report 0).wellFormed ⟨1, 1, 1⟩ = true := by decide

theorem witness_MissingLaneIsBadLane :
    State.reset.live = true ∧ (Instr.seed 4).wellFormed State.reset.cfg = false ∧
    (Instr.step 4).wellFormed State.reset.cfg = false ∧ (Instr.report 15).wellFormed State.reset.cfg = false := by decide

theorem witness_ReservedWordIsIllegalOp :
    (State.reset.withFetchWord 8 0x0F).live = true ∧ (State.reset.withFetchWord 8 0x0F).inputs = [.word 0x0F] ∧
    0x01 ≤ (0x0F : OpWord).toNat ∧ (0x0F : OpWord).toNat ≤ 0x0F ∧
    (State.reset.withFetchWord 8 0x40).live = true ∧ (State.reset.withFetchWord 8 0x40).inputs = [.word 0x40] ∧
    0x40 ≤ (0x40 : OpWord).toNat := by decide

theorem witness_FaultPriority :
    (State.reset.withFetchWord 8 0x14).live = true ∧ (State.reset.withFetchWord 8 0x14).inputs = [.word 0x14] ∧
    0x10 ≤ (0x14 : OpWord).toNat ∧ (0x14 : OpWord).toNat ≤ 0x3F ∧ State.reset.cfg.w ≤ (0x14 : OpWord).toNat % 16 ∧
    (twoInit.withFetchWord 8 0x00).live = true ∧ (twoInit.withFetchWord 8 0x00).inputs = [.word 0x00] ∧
    (twoInit.withFetchWord 8 0x00).corePh = .run := by decide

theorem witness_FaultsArePrecise :
    exec .check (State.resetOf Config.reference 3)
      = .next ((State.resetOf Config.reference 3).afterFault 1 0x00 (some 3)) ∧
    ((State.resetOf Config.reference 3).afterFault 1 0x00 (some 3)).corePh = .fatal := ⟨rfl, rfl⟩

theorem witness_OperationsStayInTheirLane :
    exec (.seed 1) twoInit = .next (twoInit.setLane 1 { phase := .running, buf := [2], cnt := 0, bpos := 0 }) ∧
    (Instr.seed 1).agent = .lane 1 ∧ (Instr.check).agent = .controller ∧
    exec .check State.reset = .next { State.reset with corePh := .run } := ⟨rfl, rfl, rfl, rfl⟩

theorem witness_NoBuildIsRefused : (State.resetOf ⟨0, 4, 4⟩ 4).cfg.legal = false := by decide

theorem witness_BuildIsAnArgument : Config.legal ⟨0, 4, 4⟩ = false := by decide

theorem witness_StepPerformsTheWord :
    (State.reset.withFetchWord 8 0x00).live = true ∧ (State.reset.withFetchWord 8 0x00).inputs = [.word 0x00] ∧
    decode (State.reset.withFetchWord 8 0x00).cfg 0x00 = .instr .check := by decide

theorem witness_AutonomousStepIsAnyEnabledAgent :
    twoInit.live = true ∧ twoInit.inputs = [] ∧ Agent.lane 1 ∈ twoInit.enabledAgents ∧
    ({ twoInit with inputs := [.turn 3] } : State).inputs = [.turn 3] ∧
    Agent.controller ∈ State.reset.enabledAgents := by decide

theorem witness_LaneHasExactlyOneEnabledOperation :
    twoInit.corePh = .run ∧ twoInit.stopped = false ∧ (1 : LaneIdx).toNat < twoInit.cfg.w ∧
    (twoInit.lane 1).bpos ≤ twoInit.cfg.batch ∧ (twoInit.lane 1).phase = .init ∧
    (oneLane 1 1 seeded1).corePh = .run ∧ ((oneLane 1 1 seeded1).lane 0).phase = .running ∧
    ((oneLane 1 1 seeded1).lane 0).bpos < (oneLane 1 1 seeded1).cfg.batch ∧
    ((oneLane 1 1 stepped1).lane 0).phase = .running ∧
    ((oneLane 1 1 stepped1).lane 0).bpos = (oneLane 1 1 stepped1).cfg.batch ∧
    State.reset.corePh ≠ .run ∧ (State.reset.afterFault 2 0x40 none).corePh ≠ .run ∧
    ((State.reset.afterFault 2 0x40 none).lane 1).bpos ≤ (State.reset.afterFault 2 0x40 none).cfg.batch := by decide

theorem witness_AutonomousOperationNeverFaultsInRun :
    twoInit.wf = true ∧ twoInit.halted = false ∧ twoInit.inputs = [] ∧
    ({ twoInit with inputs := [.turn 3] } : State).wf = true ∧
    (State.resetOf Config.reference 3).wf = true ∧ (State.resetOf Config.reference 3).halted = false := by decide

theorem witness_HaltedBlockHasNoStep :
    (State.reset.afterFault 2 0x40 none).isBuild = true ∧ (State.reset.afterFault 2 0x40 none).stopped = false ∧
    (State.reset.afterFault 2 0x40 none).corePh = .fatal ∧
    ∀ v, Input.reset v ∉ (State.reset.afterFault 2 0x40 none).inputs :=
  ⟨by decide, by decide, by decide, fun _ h => (nomatch h)⟩

theorem witness_StopEndsTheRun :
    ({ twoInit with inputs := [.stop] } : State).live = true ∧
    ({ twoInit with inputs := [.stop] } : State).inputs = .stop :: [] ∧ ∀ v, Input.reset v ∉ ([] : List Input) :=
  ⟨by decide, rfl, fun _ h => nomatch h⟩

theorem witness_ResetStartsANewRun :
    ({ twoInit with inputs := [.reset 2] } : State).isBuild = true ∧
    ({ twoInit with inputs := [.reset 2], stopped := true } : State).isBuild = true ∧
    ({ twoInit with inputs := [.reset 2], corePh := .fatal } : State).isBuild = true ∧
    ({ twoInit with inputs := [.reset 2] } : State).inputs = [.reset 2] := by decide

theorem witness_ResetLeavesTheSpecsValues : (3 : LaneIdx).toNat < Config.reference.w := by decide

/-- One step of a one-lane build from the just seeded state, by the scheduler's choice. -/
theorem witness_OutIsAppendOnly :
    step { oneLane 1 1 seeded1 with inputs := [.turn 0] } = .next { oneLane 1 1 stepped1 with out := [.matched [2]] } := rfl

theorem witness_StepKeepsForm :
    ({ oneLane 1 1 seeded1 with inputs := [.turn 0] } : State).wf = true ∧
    step { oneLane 1 1 seeded1 with inputs := [.turn 0] } = .next { oneLane 1 1 stepped1 with out := [.matched [2]] } := ⟨by decide, rfl⟩

theorem witness_StepKeepsFaultRecord :
    ({ oneLane 1 1 seeded1 with inputs := [.turn 0] } : State).faultsRecorded ∧
    step { oneLane 1 1 seeded1 with inputs := [.turn 0] } = .next { oneLane 1 1 stepped1 with out := [.matched [2]] } :=
  ⟨⟨fun h => (nomatch h), fun _ => ⟨rfl, rfl, rfl⟩⟩, rfl⟩

theorem witness_StepKeepsCheckFirst :
    ({ oneLane 1 1 seeded1 with inputs := [.turn 0] } : State).checkFirst ∧
    step { oneLane 1 1 seeded1 with inputs := [.turn 0] } = .next { oneLane 1 1 stepped1 with out := [.matched [2]] } :=
  ⟨⟨fun _ => rfl, fun h => (nomatch h), fun h => (nomatch h)⟩, rfl⟩

/-- The lane index 0 is the only one of a one-lane build. -/
theorem lane_zero {k : LaneIdx} (h : k.toNat < 1) : k = 0 := BitVec.eq_of_toNat_eq (by simp; omega)

theorem seeded1_tracks : laneTracks ⟨1, 1, 1⟩ 0 seeded1 0 0 := by unfold laneTracks; decide

theorem stepped1_tracks : laneTracks ⟨1, 1, 1⟩ 0 stepped1 1 0 := by unfold laneTracks; decide

theorem stepped1_records : [.matched [2]] = laneRecords ⟨1, 1, 1⟩ 0 1 0 := by decide

/-- The just seeded lane tracks its exponent, whatever the inputs are. -/
theorem seeded1_tracksExponents (ins : List Input) :
    ({ oneLane 1 1 seeded1 with inputs := ins } : State).tracksExponents := by
  intro k hk _
  obtain rfl := lane_zero hk
  exact ⟨0, 0, seeded1_tracks⟩

theorem witness_StepKeepsExponents :
    ({ oneLane 1 1 seeded1 with inputs := [.turn 0] } : State).tracksExponents ∧
    step { oneLane 1 1 seeded1 with inputs := [.turn 0] } = .next { oneLane 1 1 stepped1 with out := [.matched [2]] } :=
  ⟨seeded1_tracksExponents _, rfl⟩

/-- A history after one STEP: a Match of lane 0, no Progress yet. -/
theorem stepped1_hasHistory (ins : List Input) :
    ({ oneLane 1 1 stepped1 with out := [.matched [2]], inputs := ins } : State).hasHistory := by
  refine ⟨fun _ => 1, fun _ => 0, [(0, .matched [2])], rfl, by simp; decide, fun k hk => ?_⟩
  obtain rfl := lane_zero hk
  exact ⟨fun h => (nomatch h), fun _ => stepped1_tracks, stepped1_records⟩

/-- The next state is that of the lane's REPORT. -/
theorem witness_StepKeepsHistory :
    ({ oneLane 1 1 stepped1 with out := [.matched [2]], inputs := [.turn 0] } : State).hasHistory ∧
    step { oneLane 1 1 stepped1 with out := [.matched [2]], inputs := [.turn 0] }
      = .next { oneLane 1 1 { stepped1 with bpos := 0 } with out := [.matched [2], .progress 1 0] } :=
  ⟨stepped1_hasHistory _, rfl⟩

theorem witness_ResetHasTheInvariants : Config.reference.legal = true := by decide

theorem witness_MatchesAreTheEvenTestedExponents :
    ({ oneLane 1 1 stepped1 with out := [.matched [2]] } : State).isBuild = true ∧ ({ oneLane 1 1 stepped1 with out := [.matched [2]] } : State).hasHistory ∧
    (0 : LaneIdx).toNat < (oneLane 1 1 stepped1).cfg.w ∧ ((oneLane 1 1 stepped1).lane 0).phase = .running ∧
    (twoInit.lane 0).phase = .init :=
  ⟨by decide, stepped1_hasHistory [], by decide, by decide, by decide⟩

theorem witness_ProgressRecordsCountBatches :
    ({ oneLane 1 1 stepped1 with out := [.matched [2]] } : State).isBuild = true ∧ ({ oneLane 1 1 stepped1 with out := [.matched [2]] } : State).hasHistory ∧
    (0 : LaneIdx).toNat < (oneLane 1 1 stepped1).cfg.w :=
  ⟨by decide, stepped1_hasHistory [], by decide⟩

theorem witness_SingleDigitStepsAlwaysMatch :
    (oneLane 1 1 seeded1).live = true ∧ (oneLane 1 1 seeded1).cfg.d = 1 ∧ (oneLane 1 1 seeded1).tracksExponents ∧
    (0 : LaneIdx).toNat < (oneLane 1 1 seeded1).cfg.w ∧ (oneLane 1 1 seeded1).guard (.step 0) = true :=
  ⟨by decide, by decide, seeded1_tracksExponents [], by decide, by decide⟩

theorem witness_LanesCoverAllExponents :
    1 ≤ Config.reference.w ∧ 3 < Config.reference.w ∧ (1 : Nat) < 2 ∧ 7 < Config.reference.w * 2 := by decide

theorem witness_LanesCommute :
    (0 : LaneIdx) ≠ 1 ∧ (Instr.seed 0).agent = .lane 0 ∧ (Instr.seed 1).agent = .lane 1 ∧
    exec (.seed 0) twoInit = .next (twoInit.setLane 0 { phase := .running, buf := [1], cnt := 0, bpos := 0 }) ∧
    exec (.seed 1) twoInit = .next (twoInit.setLane 1 { phase := .running, buf := [2], cnt := 0, bpos := 0 }) ∧
    (twoInit.setLane 0 { phase := .running, buf := [1], cnt := 0, bpos := 0 }).corePh = .run ∧
    (twoInit.setLane 1 { phase := .running, buf := [2], cnt := 0, bpos := 0 }).corePh = .run :=
  ⟨by decide, rfl, rfl, rfl, rfl, rfl, rfl⟩

theorem witness_EndStateIgnoresInterleaving :
    twoInit.corePh = .run ∧ (execAll [.seed 0, .seed 1, .step 1] twoInit).isSome = true ∧
    ∀ a : Agent, (([.seed 0, .seed 1, .step 1] : List Instr).filter fun i => i.agent = a)
      = ([.seed 1, .step 1, .seed 0] : List Instr).filter fun j => j.agent = a := by
  refine ⟨rfl, by decide, fun a => ?_⟩
  cases a with
  | controller => rfl
  | lane k => revert k; decide

theorem witness_UnspecifiedResetValuesAreNeverRead :
    twoInit.forgetUnseeded
      = ({ twoInit with
            lanes := [{ phase := .init, buf := [7], cnt := 9, bpos := 1 }, Lane.reset ⟨1, 2, 1⟩] } : State).forgetUnseeded := by
  decide

theorem witness_MatchLineFormat : 0 < ([8, 4] : Buffer).length ∧ digitRead [8, 4] 1 = some 4 := by decide

theorem witness_ProgressLinePrintsMinimalNumerals : (0x31 : Byte) ∈ dec 10 ∧ (10 : Nat) ≠ 0 := by decide

theorem witness_PackedViewRoundTrips :
    digitRead [8, 4] 1 = some 4 ∧ unpack 2 0x48 = some [8, 4] ∧ 0 < 1 ∧
    10 ≤ ((0xA : BitVec (4 * 1)).extractLsb' (4 * 0) 4).toNat := by decide

end Sys2Proof.Tests
end

section
/-! PROOFS. What is no build is refused, the build parameters stay what they are, so that the machine takes them as its
argument (R5, R112), and the buffer representation round-trips (R8, R80). -/

namespace Sys2Proof.Machine

open Sys2Proof

/-! ### What is no build (R5) -/

/-- Every operation asks first for a live block of a build (R5, R81, R105). -/
theorem exec_eq_operate (i : Instr) (s : State) : ∃ body, exec i s = operate s body := by
  cases i with
  | check => exact ⟨_, rfl⟩
  | seed k => exact ⟨_, rfl⟩
  | step k => exact ⟨_, rfl⟩
  | report k => exact ⟨_, rfl⟩

theorem isBuild_eq_false_of_not_legal {s : State} (h : s.cfg.legal = false) : s.isBuild = false := by
  simp [State.isBuild, h]

theorem operate_of_not_isBuild {s : State} (h : s.isBuild = false) (body : Host.Outcome State Fault Refusal) :
    operate s body = .refused .notABuild := by
  simp [operate, h]

theorem exec_of_not_isBuild {s : State} (h : s.isBuild = false) (i : Instr) : exec i s = .refused .notABuild := by
  obtain ⟨body, hi⟩ := exec_eq_operate i s
  rw [hi, operate_of_not_isBuild h]

theorem step_of_not_isBuild {s : State} (h : s.isBuild = false) : step s = .refused .notABuild := by
  simp [step, advance, h]

/-- Settles O29: an illegal parameter makes the state no build, which every operation and the step ask for first. -/
theorem noBuildIsRefused : Obligations.NoBuildIsRefused := by
  intro s hc
  have hb : s.isBuild = false := isBuild_eq_false_of_not_legal hc
  exact ⟨exec_of_not_isBuild hb, step_of_not_isBuild hb⟩

/-! ### Nothing writes the build parameters (R5, R112) -/

theorem exec_keeps_cfg {i : Instr} {s t : State} (h : exec i s = .next t) : t.cfg = s.cfg := by
  obtain ⟨-, hcheck | hseed | hstep | hreport | hmismatch | hfault⟩ := exec_next h
  · obtain ⟨-, -, -, rfl⟩ := hcheck; rfl
  · obtain ⟨k, -, -, -, -, rfl⟩ := hseed; rfl
  · obtain ⟨k, -, -, -, -, -, rfl⟩ := hstep; rfl
  · obtain ⟨k, -, -, -, -, -, rfl⟩ := hreport; rfl
  · obtain ⟨-, -, -, rfl⟩ := hmismatch; rfl
  · obtain ⟨c, rfl, -⟩ := hfault; rfl

theorem step_keeps_cfg {s t : State} (h : step s = .next t) : t.cfg = s.cfg := by
  obtain ⟨-, hreset | hstop | hop | hfault⟩ := step_operation h
  · obtain ⟨v, rest, rfl⟩ := hreset; rfl
  · obtain ⟨rest, -, rfl⟩ := hstop; rfl
  · obtain ⟨inp, n, i, -, -, he⟩ := hop
    exact exec_keeps_cfg (s := { s with inputs := inp, turns := n }) he
  · obtain ⟨inp, n, c, w, -, rfl, -⟩ := hfault; rfl

/-! ### The machine of a build is the host's machine (R5) -/

/-- An operation at a block in build `c` is the operation of the machine of build `c`. -/
theorem exec_inBuild (c : Config) (i : Instr) (b : Block) :
    exec i (b.inBuild c) = inBuildOutcome c (buildExec c i b) :=
  (inBuildOutcome_blockOutcome fun _ h => exec_keeps_cfg h).symm

/-- A step at a block in build `c` is the step of the machine of build `c`. -/
theorem step_inBuild (c : Config) (b : Block) : step (b.inBuild c) = inBuildOutcome c (buildStep c b) :=
  (inBuildOutcome_blockOutcome fun _ h => step_keeps_cfg h).symm

/-- The machine of what is no build refuses every step. -/
theorem buildStep_of_not_legal {c : Config} (h : c.legal = false) (b : Block) :
    buildStep c b = .refused .notABuild := by
  have hb : (b.inBuild c).isBuild = false := isBuild_eq_false_of_not_legal h
  rw [buildStep, step_of_not_isBuild hb, blockOutcome]

/-- Settles O55: no operation and no step writes the parameters, so taking them off a next state and putting them back
loses nothing. -/
theorem buildIsAnArgument : Obligations.BuildIsAnArgument := by
  intro c v b
  exact ⟨fun i => exec_inBuild c i b, step_inBuild c b, (buildReset_inBuild c v).symm,
    fun hc => buildStep_of_not_legal hc b⟩

/-! ### Runs (R5) -/

theorem run_succ_of_next {M : Host.Core} {s t : M.State} (h : M.step s = .next t) (n : Nat) :
    M.run (n + 1) s = M.run n t := by
  simp [Host.Core.run, h]

theorem run_succ_of_fault {M : Host.Core} {s : M.State} {f : M.Fault} (h : M.step s = .fault f) (n : Nat) :
    M.run (n + 1) s = .fault f := by
  simp [Host.Core.run, h]

theorem run_succ_of_refused {M : Host.Core} {s : M.State} {r : M.Refusal} (h : M.step s = .refused r) (n : Nat) :
    M.run (n + 1) s = .refused r := by
  simp [Host.Core.run, h]

/-- The host's step at a block in build `c`, as the machine of build `c` answers it. -/
theorem core_step_inBuild {c : Config} {v : Nat} {b : Block} {o : Host.Outcome Block Fault Refusal}
    (h : (machine c v).step b = o) : core.step (b.inBuild c) = inBuildOutcome c o :=
  h ▸ step_inBuild c b

/-- Settles O56, by induction on the number of steps: each step of the host's machine is the step of the machine of the
build, and its next state is again a block in that build. -/
theorem runsAreTheBuildsRuns : Obligations.RunsAreTheBuildsRuns := by
  intro c v n
  induction n with
  | zero => exact fun b => rfl
  | succ n ih =>
    intro b
    cases h : (machine c v).step b with
    | next b' => rw [run_succ_of_next h, run_succ_of_next (core_step_inBuild h)]; exact ih b'
    | fault f => rw [run_succ_of_fault h, run_succ_of_fault (core_step_inBuild h)]; rfl
    | refused r => rw [run_succ_of_refused h, run_succ_of_refused (core_step_inBuild h)]; rfl

/-! ### Buffers and their values (R8, R80) -/

/-- The value of the `d` digits of `v` is `v` without what stands above them. -/
theorem val_enc (d v : Nat) : val (enc d v) = v % 10 ^ d := by
  induction d generalizing v with
  | zero => simp [Nat.mod_one]
  | succ d ih =>
    calc val (enc (d + 1) v)
        = v % 10 + 10 * (v / 10 % 10 ^ d) := by rw [enc_succ, val_cons, digitOf_val, ih]
      _ = v % 10 ^ (d + 1) := by rw [Nat.pow_succ', Nat.mod_mul]

/-- A digit below any number of tens is the last digit of the sum. -/
theorem digitOf_add_ten_mul (d : Digit) (v : Nat) : digitOf (d.val + 10 * v) = d :=
  Fin.ext (by rw [digitOf_val]; omega)

/-- A buffer is the encoding of its value. -/
theorem enc_val (b : Buffer) : enc b.length (val b) = b := by
  induction b with
  | nil => rfl
  | cons d ds ih =>
    have hdiv : (d.val + 10 * val ds) / 10 = val ds := by omega
    rw [List.length_cons, val_cons, enc_succ, digitOf_add_ten_mul, hdiv, ih]

/-- Settles O15: both directions are inductions over the digits, from the least significant one on. -/
theorem bufferRepresentationRoundTrips : Obligations.BufferRepresentationRoundTrips :=
  ⟨enc_val, val_enc⟩

end Sys2Proof.Machine
end

section
/-! PROOFS. The state (10_state.md): the invariants right after RESET, what every step keeps of the state's form and of the
fault registers, and OUT as an append-only stream. -/

namespace Sys2Proof.Machine

open Sys2Proof

/-! ### The form of the state (R15, R16, R20, R28) -/

theorem lane_wf_iff (c : Config) (l : Lane) :
    Lane.wf c l = true ↔ Memory.wf c.d l.buf = true ∧ l.bpos ≤ c.batch := by
  simp [Lane.wf]

theorem state_wf_iff (s : State) :
    s.wf = true ↔ s.isBuild = true ∧ (∀ l ∈ s.lanes, Lane.wf s.cfg l = true) ∧
      ∀ r ∈ s.out, OutRecord.wf s.cfg r = true := by
  simp [State.wf, and_assoc]

theorem laneReset_lane_wf (c : Config) : Lane.wf c (Lane.reset c) = true :=
  (lane_wf_iff _ _).2 ⟨laneReset_wf c, Nat.zero_le _⟩

theorem seededLane_lane_wf (c : Config) (k : LaneIdx) : Lane.wf c (seededLane c k) = true :=
  (lane_wf_iff _ _).2 ⟨seededLane_wf c k, Nat.zero_le _⟩

/-- STEP's guard `BPOS < BATCH` is what keeps the batch position in its range. -/
theorem steppedLane_lane_wf {c : Config} {l : Lane} (h : Lane.wf c l = true) (hb : l.bpos < c.batch) :
    Lane.wf c (steppedLane c l) = true :=
  (lane_wf_iff _ _).2 ⟨steppedLane_wf c l ((lane_wf_iff _ _).1 h).1, hb⟩

theorem reportedLane_lane_wf {c : Config} {l : Lane} (h : Lane.wf c l = true) :
    Lane.wf c { l with bpos := 0 } = true :=
  (lane_wf_iff _ _).2 ⟨((lane_wf_iff _ _).1 h).1, Nat.zero_le _⟩

/-- A Match holds the multiplied buffer, which has as many digits as the lane's. -/
theorem stepRecords_wf {c : Config} {l : Lane} (h : Lane.wf c l = true) :
    ∀ r ∈ stepRecords c l, OutRecord.wf c r = true := by
  intro r hr
  unfold stepRecords at hr
  split at hr
  · obtain rfl := List.mem_singleton.1 hr
    exact steppedLane_wf c l ((lane_wf_iff _ _).1 h).1
  · cases hr

theorem setLane_keeps_wf {s : State} {k : LaneIdx} {l : Lane} (h : s.wf = true) (hl : Lane.wf s.cfg l = true) :
    (s.setLane k l).wf = true := by
  obtain ⟨hb, hlanes, hout⟩ := (state_wf_iff s).1 h
  refine (state_wf_iff _).2 ⟨by simpa using hb, fun x hx => ?_, hout⟩
  obtain hx | rfl := List.mem_or_eq_of_mem_set hx
  · exact hlanes x hx
  · exact hl

theorem emit_keeps_wf {s : State} {rs : List OutRecord} (h : s.wf = true)
    (hrs : ∀ r ∈ rs, OutRecord.wf s.cfg r = true) : (s.emit rs).wf = true := by
  obtain ⟨hb, hlanes, hout⟩ := (state_wf_iff s).1 h
  exact (state_wf_iff _).2 ⟨hb, hlanes, List.forall_mem_append.2 ⟨hout, hrs⟩⟩

theorem resetRun_isBuild {s : State} (h : s.isBuild = true) (v : Nat) (rest : List Input) :
    (s.resetRun v rest).isBuild = true := by
  rw [isBuild_iff] at h ⊢
  simpa using h.1

theorem resetRun_wf {s : State} (h : s.isBuild = true) (v : Nat) (rest : List Input) :
    (s.resetRun v rest).wf = true := by
  refine (state_wf_iff _).2 ⟨resetRun_isBuild h v rest, fun l hl => ?_, fun r hr => (nomatch hr)⟩
  rw [List.eq_of_mem_replicate hl]
  exact laneReset_lane_wf s.cfg

/-- A lane of the build has its form in a well-formed state. -/
theorem lane_wf_of_state_wf {s : State} {k : LaneIdx} (h : s.wf = true) (hk : k.toNat < s.cfg.w) :
    Lane.wf s.cfg (s.lane k) = true := by
  obtain ⟨hb, hlanes, -⟩ := (state_wf_iff s).1 h
  have hlen : s.lanes.length = s.cfg.w := ((isBuild_iff s).1 hb).2
  exact hlanes _ (lane_mem s k (hlen ▸ hk))

theorem exec_keeps_wf {i : Instr} {s t : State} (hs : s.wf = true) (h : exec i s = .next t) : t.wf = true := by
  obtain ⟨-, hcheck | hseed | hstep | hreport | hmismatch | hfault⟩ := exec_next h
  · obtain ⟨-, -, -, rfl⟩ := hcheck
    exact hs
  · obtain ⟨k, -, -, -, -, rfl⟩ := hseed
    exact setLane_keeps_wf hs (seededLane_lane_wf s.cfg k)
  · obtain ⟨k, -, hk, -, -, hb, rfl⟩ := hstep
    have hl : Lane.wf s.cfg (s.lane k) = true := lane_wf_of_state_wf hs hk
    exact emit_keeps_wf (setLane_keeps_wf hs (steppedLane_lane_wf hl hb)) (stepRecords_wf hl)
  · obtain ⟨k, -, hk, -, -, -, rfl⟩ := hreport
    have hl : Lane.wf s.cfg (s.lane k) = true := lane_wf_of_state_wf hs hk
    refine emit_keeps_wf (setLane_keeps_wf hs (reportedLane_lane_wf hl)) fun r hr => ?_
    obtain rfl := List.mem_singleton.1 hr
    exact decide_eq_true hk
  · obtain ⟨-, -, -, rfl⟩ := hmismatch
    exact hs
  · obtain ⟨c, rfl, -⟩ := hfault
    exact hs

/-- Settles O39: RESET makes a state of the form, every operation keeps it, and STOP and the fault of a word write
neither lanes nor OUT. -/
theorem stepKeepsForm : Obligations.StepKeepsForm := by
  intro s t hs h
  refine ⟨?_, step_keeps_cfg h⟩
  obtain ⟨hb, hreset | hstop | hop | hfault⟩ := step_operation h
  · obtain ⟨v, rest, rfl⟩ := hreset
    exact resetRun_wf hb v rest
  · obtain ⟨rest, -, rfl⟩ := hstop
    exact hs
  · obtain ⟨inp, n, i, -, -, he⟩ := hop
    exact exec_keeps_wf (s := { s with inputs := inp, turns := n }) hs he
  · obtain ⟨inp, n, c, w, -, rfl, -⟩ := hfault
    exact hs

/-! ### The fault registers and DIAG (R24, R25, R29, R96) -/

/-- The fields of an operation's word spell the operation (R54). -/
theorem decodeFields_encode (i : Instr) : decodeFields (encode i) = some i := by
  cases i with
  | check => rfl
  | seed k => revert k; decide
  | step k => revert k; decide
  | report k => revert k; decide

theorem decode_encode_of_wellFormed {c : Config} {i : Instr} (h : i.wellFormed c = true) :
    decode c (encode i) = .instr i := by
  simp [decode, decodeFields_encode, h]

theorem decode_encode_of_not_wellFormed {c : Config} {i : Instr} (h : i.wellFormed c = false) :
    decode c (encode i) = .badLane (encode i) := by
  simp [decode, decodeFields_encode, h]

/-- While no fault has been raised there is nothing to record. -/
theorem faultsRecorded_iff_of_not_fatal {s : State} (h : s.corePh ≠ .fatal) :
    s.faultsRecorded ↔ s.faultCause = 0 ∧ s.faultOp = 0 ∧ s.diag = [] := by
  simp [State.faultsRecorded, h]

theorem live_not_fatal {s : State} (h : s.live = true) : s.corePh ≠ .fatal :=
  ((halted_eq_false_iff s).1 ((live_iff s).1 h).2).2

theorem raise_illegalOp_fits {s : State} {w : OpWord} (h : decode s.cfg w = .illegal w) :
    (s.raise .illegalOp w none).faultCauseFits := by
  simp [State.faultCauseFits, h, FaultCause.code]

theorem raise_badLane_fits {s : State} {w : OpWord} (h : decode s.cfg w = .badLane w) :
    (s.raise .badLane w none).faultCauseFits := by
  simp [State.faultCauseFits, h, FaultCause.code]

theorem raise_outOfSequence_fits {s : State} {w : OpWord} {i : Instr} (h : decode s.cfg w = .instr i) :
    (s.raise .outOfSequence w none).faultCauseFits := by
  simp [State.faultCauseFits, h, FaultCause.code]

theorem raise_cfgMismatch_fits {s : State} (h : s.wEnv ≠ s.cfg.w) :
    (s.raise .cfgMismatch (encode .check) (some s.wEnv)).faultCauseFits := by
  have hd : decode s.cfg (encode .check) = .instr .check := decode_encode_of_wellFormed rfl
  simp [State.faultCauseFits, hd, FaultCause.code, h]

/-- The fault action (R98) on a block without a fault records that fault and no other. -/
theorem raise_faultsRecorded {s : State} {c : FaultCause} {w : OpWord} {wenv : Option Nat}
    (hs : s.faultsRecorded) (hp : s.corePh ≠ .fatal) (hfits : (s.raise c w wenv).faultCauseFits)
    (hwenv : wenv = if c.code = 1 then some s.wEnv else none) : (s.raise c w wenv).faultsRecorded := by
  obtain ⟨-, -, hdiag⟩ := (faultsRecorded_iff_of_not_fatal hp).1 hs
  refine ⟨fun _ => ⟨hfits, ?_⟩, fun h => absurd rfl h⟩
  simp [hdiag, hwenv]

theorem resetRun_faultsRecorded (s : State) (v : Nat) (rest : List Input) : (s.resetRun v rest).faultsRecorded :=
  (faultsRecorded_iff_of_not_fatal (by simp)).2 ⟨rfl, rfl, rfl⟩

theorem exec_keeps_faultsRecorded {i : Instr} {s t : State} (hs : s.faultsRecorded) (h : exec i s = .next t) :
    t.faultsRecorded := by
  obtain ⟨hl, hcheck | hseed | hstep | hreport | hmismatch | hfault⟩ := exec_next h
  · obtain ⟨-, hp, -, rfl⟩ := hcheck
    have hnone := (faultsRecorded_iff_of_not_fatal (live_not_fatal hl)).1 hs
    exact (faultsRecorded_iff_of_not_fatal (by simp)).2 hnone
  · obtain ⟨k, -, -, -, -, rfl⟩ := hseed
    exact hs
  · obtain ⟨k, -, -, -, -, -, rfl⟩ := hstep
    exact hs
  · obtain ⟨k, -, -, -, -, -, rfl⟩ := hreport
    exact hs
  · obtain ⟨-, -, hw, rfl⟩ := hmismatch
    exact raise_faultsRecorded hs (live_not_fatal hl) (raise_cfgMismatch_fits hw) rfl
  · obtain ⟨c, rfl, ⟨rfl, hi⟩ | ⟨rfl, hi⟩⟩ := hfault
    · exact raise_faultsRecorded hs (live_not_fatal hl) (raise_badLane_fits (decode_encode_of_not_wellFormed hi)) rfl
    · exact raise_faultsRecorded hs (live_not_fatal hl) (raise_outOfSequence_fits (decode_encode_of_wellFormed hi)) rfl

/-- Settles O40: only a live block takes a fault, and a live block has none recorded, so the fault action leaves one
cause, one word and one record. -/
theorem stepKeepsFaultRecord : Obligations.StepKeepsFaultRecord := by
  intro s t hs h
  obtain ⟨-, hreset | hstop | hop | hfault⟩ := step_operation h
  · obtain ⟨v, rest, rfl⟩ := hreset
    exact resetRun_faultsRecorded s v rest
  · obtain ⟨rest, -, rfl⟩ := hstop
    exact hs
  · obtain ⟨inp, n, i, -, -, he⟩ := hop
    exact exec_keeps_faultsRecorded (s := { s with inputs := inp, turns := n }) hs he
  · obtain ⟨inp, n, c, w, hl, rfl, ⟨rfl, hd⟩ | ⟨rfl, hd⟩⟩ := hfault
    · exact raise_faultsRecorded (s := { s with inputs := inp, turns := n }) hs (live_not_fatal hl)
        (raise_illegalOp_fits hd) rfl
    · exact raise_faultsRecorded (s := { s with inputs := inp, turns := n }) hs (live_not_fatal hl)
        (raise_badLane_fits hd) rfl

/-! ### OUT is append-only (R28) -/

/-- STEP appends its Match or nothing (R88). -/
theorem stepRecords_length_le (c : Config) (l : Lane) : (stepRecords c l).length ≤ 1 := by
  unfold stepRecords
  split <;> simp

theorem exec_appends_to_out {i : Instr} {s t : State} (h : exec i s = .next t) :
    ∃ r, t.out = s.out ++ r ∧ r.length ≤ 1 := by
  obtain ⟨-, hcheck | hseed | hstep | hreport | hmismatch | hfault⟩ := exec_next h
  · obtain ⟨-, -, -, rfl⟩ := hcheck
    exact ⟨[], by simp⟩
  · obtain ⟨k, -, -, -, -, rfl⟩ := hseed
    exact ⟨[], by simp⟩
  · obtain ⟨k, -, -, -, -, -, rfl⟩ := hstep
    exact ⟨_, rfl, stepRecords_length_le s.cfg (s.lane k)⟩
  · obtain ⟨k, -, -, -, -, -, rfl⟩ := hreport
    exact ⟨_, rfl, le_rfl⟩
  · obtain ⟨-, -, -, rfl⟩ := hmismatch
    exact ⟨[], by simp⟩
  · obtain ⟨c, rfl, -⟩ := hfault
    exact ⟨[], by simp⟩

/-- Settles O38: RESET apart, only an operation writes OUT, and each appends one record or none. -/
theorem outIsAppendOnly : Obligations.OutIsAppendOnly := by
  intro s t h
  obtain ⟨-, hreset | hstop | hop | hfault⟩ := step_operation h
  · exact .inl hreset
  · obtain ⟨rest, -, rfl⟩ := hstop
    exact .inr ⟨[], by simp⟩
  · obtain ⟨inp, n, i, -, -, he⟩ := hop
    exact .inr (exec_appends_to_out (s := { s with inputs := inp, turns := n }) he)
  · obtain ⟨inp, n, c, w, -, rfl, -⟩ := hfault
    exact .inr ⟨[], by simp⟩

/-! ### Right after RESET (R18, R32) -/

/-- The state right after RESET is one that RESET leaves. -/
theorem resetRun_resetOf (c : Config) (v : Nat) : (State.resetOf c v).resetRun v [] = State.resetOf c v := rfl

theorem resetRun_lanesUntouched (s : State) (v : Nat) (rest : List Input) : (s.resetRun v rest).lanesUntouched := by
  refine ⟨fun l hl => ?_, rfl⟩
  rw [List.eq_of_mem_replicate hl, laneReset_phase]

theorem resetRun_checkFirst (s : State) (v : Nat) (rest : List Input) : (s.resetRun v rest).checkFirst :=
  ⟨fun h => (nomatch h), fun _ => resetRun_lanesUntouched s v rest, fun h => (nomatch h)⟩

theorem resetRun_tracksExponents (s : State) (v : Nat) (rest : List Input) : (s.resetRun v rest).tracksExponents := by
  intro k _ hrunning
  rw [resetRun_lane] at hrunning
  cases hrunning

/-- After RESET no lane has performed a STEP or a REPORT, and OUT holds no record of any lane. -/
theorem resetRun_hasHistory (s : State) (v : Nat) (rest : List Input) : (s.resetRun v rest).hasHistory := by
  refine ⟨fun _ => 0, fun _ => 0, [], rfl, fun p hp => (nomatch hp), fun k _ => ⟨fun _ => ⟨rfl, rfl⟩, ?_, rfl⟩⟩
  intro hrunning
  rw [resetRun_lane] at hrunning
  cases hrunning

/-- Settles O37: RESET writes each register its value, and every lane of the build reads as reset. -/
theorem resetLeavesTheSpecsValues : Obligations.ResetLeavesTheSpecsValues := by
  intro c v
  refine ⟨rfl, rfl, rfl, rfl, rfl, rfl, fun k _ => ⟨?_, rfl⟩⟩
  rw [← resetRun_resetOf, resetRun_lane]
  rfl

/-- Settles O44: the state right after RESET is one that a RESET leaves, and a RESET of a build brings all five. -/
theorem resetHasTheInvariants : Obligations.ResetHasTheInvariants := by
  intro c v hc
  have hb : (State.resetOf c v).isBuild = true := by simp [State.isBuild, State.resetOf, hc]
  rw [← resetRun_resetOf]
  exact ⟨resetRun_wf hb v [], resetRun_faultsRecorded _ v [], resetRun_checkFirst _ v [],
    resetRun_tracksExponents _ v [], resetRun_hasHistory _ v []⟩

end Sys2Proof.Machine
end

section
/-! PROOFS. What RESET leaves unspecified is never read (R32): a state and the same state with it forgotten answer the
same, for every operation and for the step. -/

namespace Sys2Proof.Machine

open Sys2Proof

/-! ### Forgetting what RESET leaves unspecified -/

/-- The registers of a lane without what RESET leaves unspecified: what `State.forgetUnseeded` keeps of each lane. -/
def Lane.forgetUnseeded (c : Config) (l : Lane) : Lane := if l.phase = .init then Lane.reset c else l

@[simp] theorem laneForget_reset (c : Config) : (Lane.reset c).forgetUnseeded c = Lane.reset c := by
  simp [Lane.forgetUnseeded]

/-- Nothing is forgotten of a lane that runs. -/
theorem laneForget_of_running {c : Config} {l : Lane} (h : l.phase = .running) : l.forgetUnseeded c = l := by
  simp [Lane.forgetUnseeded, h]

@[simp] theorem laneForget_phase (c : Config) (l : Lane) : (l.forgetUnseeded c).phase = l.phase := by
  cases h : l.phase with
  | init => simp [Lane.forgetUnseeded, h]
  | running => rw [laneForget_of_running h, h]

@[simp] theorem laneForget_laneForget (c : Config) (l : Lane) :
    (l.forgetUnseeded c).forgetUnseeded c = l.forgetUnseeded c := by
  cases h : l.phase with
  | init => simp [Lane.forgetUnseeded, h]
  | running => rw [laneForget_of_running h, laneForget_of_running h]

@[simp] theorem forget_cfg (s : State) : s.forgetUnseeded.cfg = s.cfg := rfl

@[simp] theorem forget_inputs (s : State) : s.forgetUnseeded.inputs = s.inputs := rfl

@[simp] theorem forget_lanes (s : State) :
    s.forgetUnseeded.lanes = s.lanes.map (Lane.forgetUnseeded s.cfg) := rfl

@[simp] theorem forget_isBuild (s : State) : s.forgetUnseeded.isBuild = s.isBuild := by
  simp [State.isBuild]

/-- Reading a lane after forgetting is forgetting the lane read. -/
@[simp] theorem forget_lane (s : State) (k : LaneIdx) :
    s.forgetUnseeded.lane k = (s.lane k).forgetUnseeded s.cfg := by
  cases h : s.lanes[k.toNat]? with
  | none => simp [State.lane, List.getD, h]
  | some l => simp [State.lane, List.getD, h]

/-! What is forgotten before a write is forgotten after it as well. -/

theorem forget_setLane_forget (s : State) (k : LaneIdx) (l : Lane) :
    (s.forgetUnseeded.setLane k l).forgetUnseeded = (s.setLane k l).forgetUnseeded := by
  have hlanes : ((s.lanes.map (Lane.forgetUnseeded s.cfg)).set k.toNat l).map (Lane.forgetUnseeded s.cfg)
      = (s.lanes.set k.toNat l).map (Lane.forgetUnseeded s.cfg) := by
    simp [List.map_set, Function.comp_def]
  exact congrArg (fun ls => { s with lanes := ls }) hlanes

theorem forget_forget (s : State) : s.forgetUnseeded.forgetUnseeded = s.forgetUnseeded := by
  have hlanes : (s.lanes.map (Lane.forgetUnseeded s.cfg)).map (Lane.forgetUnseeded s.cfg)
      = s.lanes.map (Lane.forgetUnseeded s.cfg) := by
    simp [Function.comp_def]
  exact congrArg (fun ls => { s with lanes := ls }) hlanes

theorem forget_emit (s : State) (rs : List OutRecord) :
    (s.emit rs).forgetUnseeded = s.forgetUnseeded.emit rs := rfl

theorem forget_raise (s : State) (c : FaultCause) (op : OpWord) (wenv : Option Nat) :
    (s.raise c op wenv).forgetUnseeded = s.forgetUnseeded.raise c op wenv := rfl

/-- RESET writes every register, so it makes the same state whatever was forgotten before it. -/
theorem resetRun_forget (s : State) (v : Nat) (rest : List Input) :
    s.forgetUnseeded.resetRun v rest = s.resetRun v rest := rfl

theorem outcomeView_next_eq {s t : State} (h : s.forgetUnseeded = t.forgetUnseeded) :
    outcomeView (.next s) = outcomeView (.next t) := by
  simp only [outcomeView, h]

theorem outcomeView_raise_forget (s : State) (c : FaultCause) (op : OpWord) (wenv : Option Nat) :
    outcomeView (.next (s.forgetUnseeded.raise c op wenv)) = outcomeView (.next (s.raise c op wenv)) :=
  outcomeView_next_eq (by rw [forget_raise, forget_raise, forget_forget])

/-- Two outcomes that branch on the same condition look the same when their branches do. -/
theorem outcomeView_ite {p : Prop} [Decidable p] {a a' b b' : Host.Outcome State Fault Refusal}
    (ha : p → outcomeView a' = outcomeView a) (hb : ¬p → outcomeView b' = outcomeView b) :
    outcomeView (if p then a' else b') = outcomeView (if p then a else b) := by
  split
  · exact ha ‹_›
  · exact hb ‹_›

/-! ### The operations -/

/-- What every operation asks first reads nothing of what is forgotten. -/
theorem outcomeView_operate_forget {s : State} {o o' : Host.Outcome State Fault Refusal}
    (h : outcomeView o' = outcomeView o) : outcomeView (operate s.forgetUnseeded o') = outcomeView (operate s o) := by
  unfold operate
  rw [forget_isBuild]
  exact outcomeView_ite (fun _ => rfl) fun _ => outcomeView_ite (fun _ => rfl) fun _ => h

/-- A lane operation reads nothing of what is forgotten when its guard does not and, where the guard holds, its body
does not. -/
theorem outcomeView_laneOperation_forget {i : Instr} {k : LaneIdx} {g g' : Bool} {b b' s : State}
    (hg : g' = g) (hb : g = true → b'.forgetUnseeded = b.forgetUnseeded) :
    outcomeView (laneOperation i k g' b' s.forgetUnseeded) = outcomeView (laneOperation i k g b s) := by
  subst hg
  refine outcomeView_operate_forget ?_
  refine outcomeView_ite (fun _ => outcomeView_raise_forget s _ _ _) fun _ => ?_
  refine outcomeView_ite (fun hguard => ?_) fun _ => outcomeView_raise_forget s _ _ _
  exact outcomeView_next_eq (hb (Bool.and_eq_true_iff.1 hguard).2)

/-- A guard that asks for a RUNNING lane reads nothing of what is forgotten. -/
theorem runningGuard_forget (p : Lane → Bool) (c : Config) (l : Lane) :
    ((l.forgetUnseeded c).phase == .running && p (l.forgetUnseeded c)) = (l.phase == .running && p l) := by
  cases h : l.phase with
  | init => rw [laneForget_phase, h]; rfl
  | running => rw [laneForget_of_running h, h]

/-- Rewriting the registers of a RUNNING lane and appending records computed from them reads nothing of what is
forgotten. -/
theorem forget_rewriteLane_forget (f : Lane → Lane) (rs : Lane → List OutRecord) {s : State} {k : LaneIdx}
    (h : (s.lane k).phase = .running) :
    ((s.forgetUnseeded.setLane k (f (s.forgetUnseeded.lane k))).emit (rs (s.forgetUnseeded.lane k))).forgetUnseeded
      = ((s.setLane k (f (s.lane k))).emit (rs (s.lane k))).forgetUnseeded := by
  rw [forget_lane, laneForget_of_running h, forget_emit, forget_setLane_forget, forget_emit]

/-- An operation whose guard asks for a RUNNING lane (STEP, REPORT) reads nothing of what is forgotten. -/
theorem outcomeView_runningOperation_forget (i : Instr) (k : LaneIdx) (s : State) (p : Lane → Bool) (f : Lane → Lane)
    (rs : Lane → List OutRecord) :
    outcomeView (laneOperation i k ((s.forgetUnseeded.lane k).phase == .running && p (s.forgetUnseeded.lane k))
        ((s.forgetUnseeded.setLane k (f (s.forgetUnseeded.lane k))).emit (rs (s.forgetUnseeded.lane k))) s.forgetUnseeded)
      = outcomeView (laneOperation i k ((s.lane k).phase == .running && p (s.lane k))
        ((s.setLane k (f (s.lane k))).emit (rs (s.lane k))) s) := by
  refine outcomeView_laneOperation_forget ?_ fun hguard => ?_
  · rw [forget_lane, runningGuard_forget]
  · exact forget_rewriteLane_forget f rs (beq_iff_eq.1 (Bool.and_eq_true_iff.1 hguard).1)

theorem execCheck_forget (s : State) : outcomeView (execCheck s.forgetUnseeded) = outcomeView (execCheck s) := by
  refine outcomeView_operate_forget ?_
  refine outcomeView_ite (fun _ => ?_) fun _ => outcomeView_raise_forget s _ _ _
  refine outcomeView_ite (fun _ => ?_) fun _ => outcomeView_raise_forget s _ _ _
  exact outcomeView_next_eq (forget_forget { s with corePh := .run })

/-- SEED reads the lane's phase alone, and writes every register of it. -/
theorem execSeed_forget (k : LaneIdx) (s : State) :
    outcomeView (execSeed k s.forgetUnseeded) = outcomeView (execSeed k s) :=
  outcomeView_laneOperation_forget (by rw [forget_lane, laneForget_phase]) fun _ => forget_setLane_forget s k _

theorem execStep_forget (k : LaneIdx) (s : State) :
    outcomeView (execStep k s.forgetUnseeded) = outcomeView (execStep k s) :=
  outcomeView_runningOperation_forget (.step k) k s (fun l => decide (l.bpos < s.cfg.batch)) (steppedLane s.cfg)
    (stepRecords s.cfg)

theorem execReport_forget (k : LaneIdx) (s : State) :
    outcomeView (execReport k s.forgetUnseeded) = outcomeView (execReport k s) :=
  outcomeView_runningOperation_forget (.report k) k s (fun l => decide (l.bpos = s.cfg.batch))
    (fun l => { l with bpos := 0 }) (fun l => [.progress l.cnt (laneId k)])

theorem exec_forget (i : Instr) (s : State) : outcomeView (exec i s.forgetUnseeded) = outcomeView (exec i s) := by
  cases i with
  | check => exact execCheck_forget s
  | seed k => exact execSeed_forget k s
  | step k => exact execStep_forget k s
  | report k => exact execReport_forget k s

/-! ### The step -/

/-- The lane sequencer reads the batch position of a RUNNING lane alone (R83). -/
theorem nextLaneOp_forget (s : State) (k : LaneIdx) : s.forgetUnseeded.nextLaneOp k = s.nextLaneOp k := by
  unfold State.nextLaneOp
  rw [forget_lane, forget_cfg]
  cases h : (s.lane k).phase with
  | init => rw [laneForget_phase, h]
  | running => rw [laneForget_of_running h, h]

theorem nextOp_forget (s : State) (a : Agent) : s.forgetUnseeded.nextOp a = s.nextOp a := by
  cases a with
  | controller => rfl
  | lane k =>
    simp only [State.nextOp, nextLaneOp_forget]
    rfl

theorem takeTurn_forget (n : Nat) (s : State) :
    outcomeView (takeTurn n s.forgetUnseeded) = outcomeView (takeTurn n s) := by
  have hagent : s.forgetUnseeded.turnAgent n = s.turnAgent n := rfl
  unfold takeTurn
  rw [nextOp_forget, hagent]
  cases s.nextOp (s.turnAgent n) with
  | none => rfl
  | some i => exact exec_forget i s

theorem performWord_forget (w : OpWord) (s : State) :
    outcomeView (performWord w s.forgetUnseeded) = outcomeView (performWord w s) := by
  unfold performWord
  rw [forget_cfg]
  cases decode s.cfg w with
  | instr i => exact exec_forget i s
  | illegal w => exact outcomeView_operate_forget (outcomeView_raise_forget s _ _ _)
  | badLane w => exact outcomeView_operate_forget (outcomeView_raise_forget s _ _ _)

theorem awaitReset_forget (s : State) : outcomeView (awaitReset s.forgetUnseeded) = outcomeView (awaitReset s) := by
  unfold awaitReset
  rw [forget_inputs]
  cases pendingReset s.inputs with
  | none => rfl
  | some p => rfl

theorem takeInput_forget (s : State) : outcomeView (takeInput s.forgetUnseeded) = outcomeView (takeInput s) := by
  unfold takeInput
  rw [forget_inputs]
  cases s.inputs with
  | nil => exact takeTurn_forget _ { s with inputs := [], turns := s.turns + 1 }
  | cons input rest =>
    cases input with
    | turn n => exact takeTurn_forget n { s with inputs := rest }
    | word w => exact performWord_forget w { s with inputs := rest }
    | reset v => exact outcomeView_next_eq (congrArg State.forgetUnseeded (resetRun_forget s v rest))
    | stop => exact outcomeView_next_eq (forget_forget { s with inputs := rest, stopped := true })

theorem step_forget (s : State) : outcomeView (step s.forgetUnseeded) = outcomeView (step s) := by
  unfold step advance
  rw [forget_isBuild]
  exact outcomeView_ite (fun _ => rfl) fun _ =>
    outcomeView_ite (fun _ => awaitReset_forget s) fun _ => takeInput_forget s

/-- Settles O51: the step and every operation answer for a state what they answer for the state with the unspecified
registers forgotten, which is the same for both states. -/
theorem unspecifiedResetValuesAreNeverRead : Obligations.UnspecifiedResetValuesAreNeverRead := by
  intro s s' h
  refine ⟨?_, fun i => ?_⟩
  · rw [← step_forget s, ← step_forget s', h]
  · rw [← exec_forget i s, ← exec_forget i s', h]

end Sys2Proof.Machine
end

section
/-! PROOFS. The digit spaces (20_memory.md): the pass in place (R41), and the packed view of a buffer (R37, R51, R52). -/

namespace Sys2Proof.Machine

open Sys2Proof

/-! ### The pass in place (R41, R71) -/

theorem digitRead_append_cons (done : Buffer) (d : Digit) (ds : Buffer) :
    digitRead (done ++ d :: ds) done.length = some d := by
  simp [digitRead]

theorem digitWrite_append_cons (done : Buffer) (d x : Digit) (ds : Buffer) :
    digitWrite (done ++ d :: ds) done.length x = (done ++ [x]) ++ ds := by
  simp [digitWrite]

/-- One position of the pass in place: the cell read is the cell written, and the cells below it are done. -/
theorem passInPlace_append_cons (f n c : Nat) (p : Bool) (done : Buffer) (d : Digit) (ds : Buffer) :
    passInPlace f (n + 1) done.length c p (done ++ d :: ds) =
      passInPlace f n (done ++ [(cell f d c).1]).length (cell f d c).2 (p && even (cell f d c).1)
        ((done ++ [(cell f d c).1]) ++ ds) := by
  simp only [passInPlace, digitRead_append_cons, digitWrite_append_cons, List.length_append, List.length_singleton]

/-- The pass in place over the cells that remain leaves the cells already done, and the pass of the others. -/
theorem passInPlace_eq_passFrom (f : Nat) (ds done : Buffer) (c : Nat) (p : Bool) :
    passInPlace f ds.length done.length c p (done ++ ds) =
      { buf := done ++ (passFrom f c p ds).buf
        carry := (passFrom f c p ds).carry
        parity := (passFrom f c p ds).parity } := by
  induction ds generalizing done c p with
  | nil => rfl
  | cons d ds ih =>
    rw [List.length_cons, passInPlace_append_cons, ih, passFrom_cons, List.append_assoc, List.singleton_append]

/-- Settles O13: the pass in place that has done no cell yet is the whole pass. -/
theorem inPlacePassIsThePass : Obligations.InPlacePassIsThePass :=
  fun f b => passInPlace_eq_passFrom f b [] 0 true

/-! ### The packed view as a number (R37) -/

theorem packedNat_lt (b : Buffer) : packedNat b < 16 ^ b.length := by
  induction b with
  | nil => decide
  | cons d ds ih =>
    rw [packedNat, List.length_cons, Nat.pow_succ']
    omega

/-- The base-16 digit of the packed view at a position is the buffer's digit there. -/
theorem packedNat_digit {b : Buffer} {i : Nat} {d : Digit} (h : digitRead b i = some d) :
    packedNat b / 16 ^ i % 16 = d.val := by
  induction b generalizing i with
  | nil => cases h
  | cons x xs ih =>
    cases i with
    | zero =>
      obtain rfl : x = d := by simpa [digitRead] using h
      rw [packedNat]
      omega
    | succ i =>
      have hdiv : (x.val + 16 * packedNat xs) / 16 = packedNat xs := by omega
      rw [packedNat, Nat.pow_succ', ← Nat.div_div_eq_div_mul, hdiv]
      exact ih (by simpa [digitRead] using h)

theorem two_pow_four_mul (n : Nat) : 2 ^ (4 * n) = 16 ^ n := Nat.pow_mul 2 4 n

/-- Bits `[4i+3:4i]` of a word are its base-16 digit `i`. -/
theorem extract_nibble_toNat {n : Nat} (v : BitVec n) (i : Nat) :
    (v.extractLsb' (4 * i) 4).toNat = v.toNat / 16 ^ i % 16 := by
  rw [BitVec.extractLsb'_toNat, Nat.shiftRight_eq_div_pow, two_pow_four_mul]

@[simp] theorem packed_toNat (b : Buffer) : (packed b.length b).toNat = packedNat b := by
  rw [packed, BitVec.toNat_ofNat, two_pow_four_mul, Nat.mod_eq_of_lt (packedNat_lt b)]

/-- R37, R51: bits `[4i+3:4i]` of the packed view are the code of digit `i`. -/
theorem packed_nibble {b : Buffer} {i : Nat} {d : Digit} (h : digitRead b i = some d) :
    (packed b.length b).extractLsb' (4 * i) 4 = digitCode d := by
  refine BitVec.eq_of_toNat_eq ?_
  rw [extract_nibble_toNat, packed_toNat, packedNat_digit h, digitCode, BitVec.toNat_ofNat]
  omega

/-! ### Unpacking (R52) -/

theorem digitOfCode_eq_some_iff {c : BitVec 4} {x : Digit} : digitOfCode c = some x ↔ c.toNat = x.val := by
  unfold digitOfCode
  split
  · simp [Fin.ext_iff]
  · refine ⟨fun h => (nomatch h), fun h => ?_⟩
    omega

/-- Unpacking one more digit: the lowest code is a digit's, and the rest unpacks. -/
theorem unpackNat_succ_eq_some_iff {d v : Nat} {b : Buffer} :
    unpackNat (d + 1) v = some b ↔ ∃ x ds, b = x :: ds ∧ v % 16 = x.val ∧ unpackNat d (v / 16) = some ds := by
  have hcode (x : Digit) : digitOfCode (BitVec.ofNat 4 v) = some x ↔ v % 16 = x.val := digitOfCode_eq_some_iff
  rw [unpackNat]
  split
  · rename_i x ds hx hds
    constructor
    · rintro ⟨⟩
      exact ⟨x, ds, rfl, (hcode x).1 hx, hds⟩
    · rintro ⟨y, es, rfl, hy, hes⟩
      rw [Option.some.inj (hx.symm.trans ((hcode y).2 hy)), Option.some.inj (hds.symm.trans hes)]
  · rename_i hnone
    refine ⟨fun h => (nomatch h), ?_⟩
    rintro ⟨x, ds, -, hx, hds⟩
    exact absurd hds (hnone x ds ((hcode x).2 hx))

/-- What unpacks to a buffer is the buffer's packed view, in the digits unpacked. -/
theorem unpackNat_eq_some_iff {d v : Nat} {b : Buffer} :
    unpackNat d v = some b ↔ b.length = d ∧ packedNat b = v % 16 ^ d := by
  induction d generalizing v b with
  | zero =>
    rw [unpackNat, Option.some_inj, pow_zero, Nat.mod_one, List.length_eq_zero_iff]
    exact ⟨fun h => h ▸ ⟨rfl, rfl⟩, fun h => h.1.symm⟩
  | succ d ih =>
    have hmod : v % 16 ^ (d + 1) = v % 16 + 16 * (v / 16 % 16 ^ d) := by rw [Nat.pow_succ', Nat.mod_mul]
    rw [unpackNat_succ_eq_some_iff, hmod]
    constructor
    · rintro ⟨x, ds, rfl, hx, hds⟩
      obtain ⟨hlen, hval⟩ := ih.1 hds
      exact ⟨by rw [List.length_cons, hlen], by rw [packedNat, hx, hval]⟩
    · rintro ⟨hlen, hval⟩
      cases b with
      | nil => cases hlen
      | cons x ds =>
        rw [packedNat] at hval
        exact ⟨x, ds, rfl, by omega, ih.2 ⟨Nat.succ.inj hlen, by omega⟩⟩

/-- A view of `d` digits unpacks to a buffer exactly when it is the view of that buffer of `d` digits. -/
theorem unpack_eq_some_iff {d : Nat} {v : BitVec (4 * d)} {b : Buffer} :
    unpack d v = some b ↔ b.length = d ∧ packed d b = v := by
  have hv : v.toNat % 16 ^ d = v.toNat := Nat.mod_eq_of_lt (two_pow_four_mul d ▸ v.isLt)
  rw [unpack, unpackNat_eq_some_iff, hv]
  refine and_congr_right fun hlen => ?_
  subst hlen
  rw [← BitVec.toNat_inj, packed_toNat]

/-- Settles O54: the view is read digit by digit, unpacking inverts it, and a refused code is the code of no digit. -/
theorem packedViewRoundTrips : Obligations.PackedViewRoundTrips := by
  refine ⟨fun b i d h => packed_nibble h, fun b => unpack_eq_some_iff.2 ⟨rfl, rfl⟩,
    fun d v b h => unpack_eq_some_iff.1 h, fun d v i hi hcode => ?_⟩
  refine Option.eq_none_iff_forall_ne_some.2 fun b hb => ?_
  obtain ⟨rfl, rfl⟩ := unpack_eq_some_iff.1 hb
  have hread : digitRead b i = some b[i] := List.getElem?_eq_getElem hi
  rw [extract_nibble_toNat, packed_toNat, packedNat_digit hread] at hcode
  omega

end Sys2Proof.Machine
end

section
/-! PROOFS. The lanes' digit spaces (20_memory.md): an operation performed without a fault rewrites the registers of its
own lane and appends to OUT, whence its frame (R39, R42, R109) and the order of operations of different lanes (R44, R46). -/

namespace Sys2Proof.Machine

open Sys2Proof

/-! ### A lane operation performed without a fault -/

/-- The registers a lane operation leaves in a lane with the registers `l` (R87 to R89). -/
def laneAfter (c : Config) (l : Lane) : Instr → Lane
  | .check => l
  | .seed k => seededLane c k
  | .step _ => steppedLane c l
  | .report _ => { l with bpos := 0 }

/-- The records a lane operation appends to OUT from the registers `l` (R87 to R89). -/
def laneEmits (c : Config) (l : Lane) : Instr → List OutRecord
  | .check => []
  | .seed _ => []
  | .step _ => stepRecords c l
  | .report k => [.progress l.cnt k]

/-- The state after operation `i` of lane `k`, performed without a fault. -/
def State.perform (s : State) (i : Instr) (k : LaneIdx) : State :=
  (s.setLane k (laneAfter s.cfg (s.lane k) i)).emit (laneEmits s.cfg (s.lane k) i)

/-- `i` is an operation of lane `k` that is performed in `s` without a fault (R81). -/
structure State.CanPerform (s : State) (i : Instr) (k : LaneIdx) : Prop where
  agent : i.agent = .lane k
  live : s.live = true
  lane_lt : k.toNat < s.cfg.w
  run : s.corePh = .run
  guard : s.guard i = true

theorem emit_nil (s : State) : s.emit [] = s := by simp [State.emit]

/-- A lane operation of the build whose guard holds is its body. -/
theorem laneOperation_eq_body {i : Instr} {k : LaneIdx} {g : Bool} {b s : State} (hl : s.live = true)
    (hk : k.toNat < s.cfg.w) (hr : s.corePh = .run) (hg : g = true) : laneOperation i k g b s = .next b := by
  rw [laneOperation, operate_live hl, if_neg (Nat.not_le.2 hk), if_pos (by simp [hr, hg])]

theorem exec_of_canPerform {s : State} {i : Instr} {k : LaneIdx} (h : s.CanPerform i k) :
    exec i s = .next (s.perform i k) := by
  obtain ⟨ha, hl, hk, hr, hg⟩ := h
  cases i with
  | check => cases ha
  | seed j =>
    cases ha
    rw [State.perform, laneEmits, emit_nil]
    exact laneOperation_eq_body hl hk hr (by simpa [State.guard, hr] using hg)
  | step j =>
    cases ha
    exact laneOperation_eq_body hl hk hr (by simpa [State.guard, hr] using hg)
  | report j =>
    cases ha
    exact laneOperation_eq_body hl hk hr (by simpa [State.guard, hr] using hg)

/-- All an operation can do when it answers a next state: perform in its lane, pass the check, or raise a fault. -/
theorem exec_effect {i : Instr} {s t : State} (h : exec i s = .next t) :
    (∃ k, s.CanPerform i k ∧ t = s.perform i k) ∨
    (i = .check ∧ s.corePh = .unchecked ∧ t = { s with corePh := .run }) ∨
    (∃ c wenv, t = s.raise c (encode i) wenv) := by
  obtain ⟨hl, hcheck | hseed | hstep | hreport | hmismatch | hfault⟩ := exec_next h
  · obtain ⟨hi, hp, -, rfl⟩ := hcheck
    exact .inr (.inl ⟨hi, hp, rfl⟩)
  · obtain ⟨k, rfl, hk, hr, hp, rfl⟩ := hseed
    exact .inl ⟨k, ⟨rfl, hl, hk, hr, by simp [State.guard, hr, hp]⟩, (emit_nil _).symm⟩
  · obtain ⟨k, rfl, hk, hr, hp, hb, rfl⟩ := hstep
    exact .inl ⟨k, ⟨rfl, hl, hk, hr, by simp [State.guard, hr, hp, hb]⟩, rfl⟩
  · obtain ⟨k, rfl, hk, hr, hp, hb, rfl⟩ := hreport
    exact .inl ⟨k, ⟨rfl, hl, hk, hr, by simp [State.guard, hr, hp, hb]⟩, rfl⟩
  · obtain ⟨rfl, -, -, rfl⟩ := hmismatch
    exact .inr (.inr ⟨_, _, rfl⟩)
  · obtain ⟨c, rfl, -⟩ := hfault
    exact .inr (.inr ⟨c, none, rfl⟩)

/-! ### What performing leaves in each field -/

@[simp] theorem perform_cfg (s : State) (i : Instr) (k : LaneIdx) : (s.perform i k).cfg = s.cfg := rfl

@[simp] theorem perform_corePh (s : State) (i : Instr) (k : LaneIdx) : (s.perform i k).corePh = s.corePh := rfl

@[simp] theorem perform_out (s : State) (i : Instr) (k : LaneIdx) :
    (s.perform i k).out = s.out ++ laneEmits s.cfg (s.lane k) i := rfl

theorem perform_live (s : State) (i : Instr) (k : LaneIdx) : (s.perform i k).live = s.live :=
  congrArg (· && !s.halted) (setLane_isBuild s k _)

/-- The lane that performs holds what the operation leaves there. -/
theorem perform_lane_self {s : State} {i : Instr} {k : LaneIdx} (h : s.CanPerform i k) :
    (s.perform i k).lane k = laneAfter s.cfg (s.lane k) i := by
  have hlen : s.lanes.length = s.cfg.w := ((isBuild_iff s).1 ((live_iff s).1 h.live).1).2
  exact lane_setLane_self s k _ (hlen ▸ h.lane_lt)

theorem perform_lane_other (s : State) (i : Instr) {j k : LaneIdx} (h : j ≠ k) :
    (s.perform i k).lane j = s.lane j :=
  lane_setLane_other s j k _ h

/-! ### An operation performed changes its lane (R39) -/

/-- A guard that holds makes the operation change a register of its lane: SEED its phase, STEP its batch position, REPORT
a batch position that is `BATCH`, hence not 0. -/
theorem laneAfter_ne {s : State} {i : Instr} {k : LaneIdx} (h : s.CanPerform i k) :
    laneAfter s.cfg (s.lane k) i ≠ s.lane k := by
  obtain ⟨⟨-, hbatch, -, -⟩, -⟩ := (isBuild_iff s).1 ((live_iff s).1 h.live).1
  have ha := h.agent
  have hg := h.guard
  intro heq
  cases i with
  | check => cases ha
  | seed j =>
    cases ha
    have hphase := congrArg Lane.phase heq
    simp [State.guard, ← hphase, laneAfter] at hg
  | step j =>
    have hbpos := congrArg Lane.bpos heq
    simp [laneAfter] at hbpos
  | report j =>
    cases ha
    have hbpos : 0 = (s.lane k).bpos := congrArg Lane.bpos heq
    have hend : (s.lane k).bpos = s.cfg.batch := by
      simp only [State.guard, Bool.and_eq_true, decide_eq_true_eq] at hg
      exact hg.2
    omega

theorem perform_ne_self {s : State} {i : Instr} {k : LaneIdx} (h : s.CanPerform i k) : s.perform i k ≠ s :=
  fun heq => laneAfter_ne h (by rw [← perform_lane_self h, heq])

/-- Settles O22: an operation performed in a lane changes that lane, and CHECK and a fault change `CORE_PH`. -/
theorem everyOperationChangesState : Obligations.EveryOperationChangesState := by
  intro i s t _ _ h
  obtain ⟨hl, -⟩ := exec_next h
  obtain ⟨k, hk, rfl⟩ | ⟨-, hp, rfl⟩ | ⟨c, wenv, rfl⟩ := exec_effect h
  · exact perform_ne_self hk
  · intro heq
    rw [← heq] at hp
    cases hp
  · intro heq
    have hfatal : s.corePh = .fatal := heq ▸ raise_corePh s c (encode i) wenv
    exact live_not_fatal hl hfatal

/-! ### No operation changes another lane (R42, R109) -/

/-- What reads the same registers reads the same digits. -/
theorem memRead_congr {s t : State} {k : LaneIdx} (h : t.lane k = s.lane k) (i : Nat) :
    t.memRead k i = s.memRead k i := by
  rw [State.memRead, State.memRead, h]

theorem otherLanesSame_perform (s : State) (i : Instr) (k : LaneIdx) : s.otherLanesSame (s.perform i k) k := by
  refine ⟨by simp [State.perform], fun j hj => ?_⟩
  have hlane := perform_lane_other s i hj
  exact ⟨hlane, memRead_congr hlane⟩

theorem otherLanesSame_raise (s : State) (c : FaultCause) (op : OpWord) (wenv : Option Nat) (k : LaneIdx) :
    s.otherLanesSame (s.raise c op wenv) k :=
  ⟨rfl, fun _ _ => ⟨rfl, fun _ => rfl⟩⟩

/-- Settles O28: an operation writes its own lane and OUT, or `CORE_PH`, or what the fault action writes. -/
theorem operationsStayInTheirLane : Obligations.OperationsStayInTheirLane := by
  intro i s t h
  obtain ⟨k, hk, rfl⟩ | ⟨rfl, -, rfl⟩ | ⟨c, wenv, rfl⟩ := exec_effect h
  · have hagent := hk.agent
    refine ⟨fun j hj => ?_, fun hc => ?_, rfl, rfl, rfl, rfl, rfl⟩
    · obtain rfl : k = j := Agent.lane.inj (hagent.symm.trans hj)
      exact otherLanesSame_perform s i k
    · rw [hagent] at hc
      cases hc
  · exact ⟨fun j hj => (nomatch hj), fun _ => ⟨rfl, rfl⟩, rfl, rfl, rfl, rfl, rfl⟩
  · exact ⟨fun j _ => otherLanesSame_raise s c _ wenv j, fun _ => ⟨rfl, rfl⟩, rfl, rfl, rfl, rfl, rfl⟩

/-! ### Operations of different lanes commute (R44) -/

/-- A lane operation that leaves the block running has been performed without a fault. -/
theorem exec_lane_run {i : Instr} {s t : State} {k : LaneIdx} (ha : i.agent = .lane k) (h : exec i s = .next t)
    (hr : t.corePh = .run) : s.CanPerform i k ∧ t = s.perform i k := by
  obtain ⟨j, hj, rfl⟩ | ⟨rfl, -, -⟩ | ⟨c, wenv, rfl⟩ := exec_effect h
  · obtain rfl : j = k := Agent.lane.inj (hj.agent.symm.trans ha)
    exact ⟨hj, rfl⟩
  · cases ha
  · cases hr

/-- The guard of a lane operation reads the parameters, `CORE_PH` and the operation's own lane alone. -/
theorem guard_congr {s t : State} {i : Instr} {k : LaneIdx} (ha : i.agent = .lane k) (hc : t.cfg = s.cfg)
    (hp : t.corePh = s.corePh) (hk : t.lane k = s.lane k) : t.guard i = s.guard i := by
  cases i with
  | check => cases ha
  | seed j => cases ha; simp only [State.guard, hp, hk]
  | step j => cases ha; simp only [State.guard, hc, hp, hk]
  | report j => cases ha; simp only [State.guard, hc, hp, hk]

/-- What one lane performs makes no operation of another lane possible or impossible. -/
theorem canPerform_perform_iff {s : State} {x y : LaneIdx} (h : y ≠ x) (i j : Instr) :
    (s.perform i x).CanPerform j y ↔ s.CanPerform j y := by
  have hguard (ha : j.agent = .lane y) : (s.perform i x).guard j = s.guard j :=
    guard_congr ha rfl rfl (perform_lane_other s i h)
  constructor
  · rintro ⟨ha, hl, hk, hr, hg⟩
    exact ⟨ha, perform_live s i x ▸ hl, hk, hr, hguard ha ▸ hg⟩
  · rintro ⟨ha, hl, hk, hr, hg⟩
    exact ⟨ha, (perform_live s i x).trans hl, hk, hr, (hguard ha).trans hg⟩

theorem emit_emit (s : State) (rs qs : List OutRecord) : (s.emit rs).emit qs = s.emit (rs ++ qs) := by
  simp [State.emit]

theorem setLane_comm (s : State) {x y : LaneIdx} (h : x ≠ y) (l m : Lane) :
    (s.setLane x l).setLane y m = (s.setLane y m).setLane x l := by
  have hne : x.toNat ≠ y.toNat := fun e => h (BitVec.eq_of_toNat_eq e)
  exact congrArg (fun ls => { s with lanes := ls }) (List.set_comm l m hne)

/-- Two operations of different lanes, each rewriting its own lane from what was there before both. -/
theorem perform_perform (s : State) {x y : LaneIdx} (h : y ≠ x) (i j : Instr) :
    (s.perform i x).perform j y =
      ((s.setLane x (laneAfter s.cfg (s.lane x) i)).setLane y (laneAfter s.cfg (s.lane y) j)).emit
        (laneEmits s.cfg (s.lane x) i ++ laneEmits s.cfg (s.lane y) j) := by
  rw [← emit_emit, State.perform, perform_lane_other s i h]
  rfl

/-- In the other order the two leave the same state, but for OUT. -/
theorem perform_comm (s : State) {x y : LaneIdx} (h : x ≠ y) (i j : Instr) :
    (s.perform i x).perform j y =
      { (s.perform j y).perform i x with
        out := s.out ++ (laneEmits s.cfg (s.lane x) i ++ laneEmits s.cfg (s.lane y) j) } := by
  rw [perform_perform s h.symm, perform_perform s h, setLane_comm s h]
  rfl

/-- Settles O49: neither operation reads or writes the other's lane, and the records are those of the state before both. -/
theorem lanesCommute : Obligations.LanesCommute := by
  intro s a b i j x y hxy hi hj ha har hb hbr
  obtain ⟨hci, rfl⟩ := exec_lane_run hi ha har
  obtain ⟨hcj, rfl⟩ := exec_lane_run hj hb hbr
  have hij := perform_comm s hxy i j
  have hji := perform_comm s hxy.symm j i
  refine ⟨_, _, _, _, exec_of_canPerform ((canPerform_perform_iff hxy.symm i j).2 hcj),
    exec_of_canPerform ((canPerform_perform_iff hxy j i).2 hci), perform_out s i x, perform_out s j y, ?_, ?_, ?_⟩
  · rw [hij, List.append_assoc]
  · rw [hji, List.append_assoc]
  · rw [hij]

/-! ### States that differ in the order of OUT alone (R44, R46) -/

/-- `t` is `s` but for the order of the records in OUT. -/
def State.sameUpToOutOrder (s t : State) : Prop := ∃ o, t = { s with out := o } ∧ o.Perm s.out

theorem sameUpToOutOrder_refl (s : State) : s.sameUpToOutOrder s := ⟨s.out, rfl, .refl _⟩

theorem sameUpToOutOrder_trans {s t u : State} (hst : s.sameUpToOutOrder t) (htu : t.sameUpToOutOrder u) :
    s.sameUpToOutOrder u := by
  obtain ⟨o, rfl, ho⟩ := hst
  obtain ⟨q, rfl, hq⟩ := htu
  exact ⟨q, rfl, hq.trans ho⟩

/-- No operation reads OUT. -/
theorem canPerform_of_sameUpToOutOrder {s t : State} {i : Instr} {k : LaneIdx} (hst : s.sameUpToOutOrder t)
    (h : s.CanPerform i k) : t.CanPerform i k := by
  obtain ⟨o, rfl, -⟩ := hst
  exact ⟨h.agent, h.live, h.lane_lt, h.run, (guard_congr (s := s) h.agent rfl rfl rfl).trans h.guard⟩

theorem perform_sameUpToOutOrder {s t : State} (hst : s.sameUpToOutOrder t) (i : Instr) (k : LaneIdx) :
    (s.perform i k).sameUpToOutOrder (t.perform i k) := by
  obtain ⟨o, rfl, ho⟩ := hst
  exact ⟨o ++ laneEmits s.cfg (s.lane k) i, rfl, ho.append_right _⟩

theorem perform_comm_sameUpToOutOrder (s : State) {x y : LaneIdx} (h : x ≠ y) (i j : Instr) :
    ((s.perform i x).perform j y).sameUpToOutOrder ((s.perform j y).perform i x) := by
  refine ⟨_, perform_comm s h.symm j i, ?_⟩
  rw [perform_comm s h i j]
  exact List.perm_append_comm.append_left s.out

/-! ### Sequences of operations (R44, R46) -/

/-- While the block runs, a sequence is performed exactly when its first operation is one that a lane performs without a
fault, and the rest is performed after it. -/
theorem execAll_cons_eq_some_iff {i : Instr} {is : List Instr} {s t : State} (hs : s.corePh = .run) :
    execAll (i :: is) s = some t ↔ ∃ k, s.CanPerform i k ∧ execAll is (s.perform i k) = some t := by
  constructor
  · intro h
    rw [execAll] at h
    split at h
    · rename_i a ha
      split at h
      · rename_i hr
        obtain ⟨k, hk, rfl⟩ | ⟨-, hp, -⟩ | ⟨c, wenv, rfl⟩ := exec_effect ha
        · exact ⟨k, hk, h⟩
        · rw [hs] at hp
          cases hp
        · cases hr
      · cases h
    · cases h
    · cases h
  · rintro ⟨k, hk, h⟩
    simpa [execAll, exec_of_canPerform hk, hs] using h

/-- A sequence of operations goes the same way whatever the order of the records already in OUT. -/
theorem execAll_sameUpToOutOrder {is : List Instr} {s s' t : State} (hs : s.corePh = .run)
    (hss' : s.sameUpToOutOrder s') (h : execAll is s = some t) :
    ∃ t', execAll is s' = some t' ∧ t.sameUpToOutOrder t' := by
  induction is generalizing s s' with
  | nil =>
    obtain rfl := Option.some_inj.1 h
    exact ⟨s', rfl, hss'⟩
  | cons i is ih =>
    obtain ⟨k, hk, h⟩ := (execAll_cons_eq_some_iff hs).1 h
    obtain ⟨t', ht', htt'⟩ := ih (s := s.perform i k) hs (perform_sameUpToOutOrder hss' i k) h
    have hk' := canPerform_of_sameUpToOutOrder hss' hk
    exact ⟨t', (execAll_cons_eq_some_iff hk'.run).2 ⟨k, hk', ht'⟩, htt'⟩

/-- The first operation of an agent in a sequence can be performed before all that other agents do before it. -/
theorem execAll_move_to_front {before rest : List Instr} {j : Instr} {s t : State} (hs : s.corePh = .run)
    (hne : ∀ i ∈ before, i.agent ≠ j.agent) (h : execAll (before ++ j :: rest) s = some t) :
    ∃ u, execAll (j :: (before ++ rest)) s = some u ∧ t.sameUpToOutOrder u := by
  induction before generalizing s with
  | nil => exact ⟨t, h, sameUpToOutOrder_refl t⟩
  | cons i before ih =>
    obtain ⟨hij, hne⟩ := List.forall_mem_cons.1 hne
    obtain ⟨x, hi, h⟩ := (execAll_cons_eq_some_iff hs).1 h
    obtain ⟨u, hu, htu⟩ := ih (s := s.perform i x) hs hne h
    obtain ⟨y, hj, hu⟩ := (execAll_cons_eq_some_iff (s := s.perform i x) hs).1 hu
    have hxy : x ≠ y := fun e => hij (by rw [hi.agent, hj.agent, e])
    have hj' : s.CanPerform j y := (canPerform_perform_iff hxy.symm i j).1 hj
    have hi' : (s.perform j y).CanPerform i x := (canPerform_perform_iff hxy j i).2 hi
    have hswap := perform_comm_sameUpToOutOrder s hxy i j
    obtain ⟨v, hv, huv⟩ := execAll_sameUpToOutOrder (s := (s.perform i x).perform j y) hs hswap hu
    have hrest : execAll (i :: (before ++ rest)) (s.perform j y) = some v :=
      (execAll_cons_eq_some_iff hi'.run).2 ⟨x, hi', hv⟩
    exact ⟨v, (execAll_cons_eq_some_iff hs).2 ⟨y, hj', hrest⟩, sameUpToOutOrder_trans htu huv⟩

/-! ### Interleavings -/

/-- Two sequences hold the same operations of each agent, in the same order (R44). -/
def sameAgentByAgent (is js : List Instr) : Prop :=
  ∀ a : Agent, (is.filter fun i => i.agent = a) = js.filter fun j => j.agent = a

theorem eq_nil_of_sameAgentByAgent_nil {is : List Instr} (h : sameAgentByAgent is []) : is = [] := by
  refine List.eq_nil_iff_forall_not_mem.2 fun i hi => ?_
  have hmem : i ∈ is.filter fun x => x.agent = i.agent := List.mem_filter.2 ⟨hi, decide_eq_true rfl⟩
  rw [h i.agent] at hmem
  cases hmem

/-- The first operation of one interleaving is its agent's first in the other; without it the two still agree. -/
theorem sameAgentByAgent_cons {is js : List Instr} {j : Instr} (h : sameAgentByAgent is (j :: js)) :
    ∃ before rest, is = before ++ j :: rest ∧ (∀ i ∈ before, i.agent ≠ j.agent) ∧
      sameAgentByAgent (before ++ rest) js := by
  have hfilter : (is.filter fun i => i.agent = j.agent) = j :: js.filter fun i => i.agent = j.agent := by
    rw [h j.agent, List.filter_cons_of_pos (by simp)]
  obtain ⟨before, rest, rfl, hne, -, hrest⟩ := List.filter_eq_cons_iff.1 hfilter
  have hne : ∀ i ∈ before, i.agent ≠ j.agent := by simpa using hne
  refine ⟨before, rest, rfl, hne, fun a => ?_⟩
  by_cases ha : j.agent = a
  · subst ha
    have hbefore : (before.filter fun i => i.agent = j.agent) = [] := by simpa [List.filter_eq_nil_iff] using hne
    rw [List.filter_append, hbefore, List.nil_append, hrest]
  · simpa [List.filter_append, List.filter_cons, ha] using h a

/-- One interleaving goes as another does, but for the order of OUT: the first operation of the one is moved to the front
of the other, past operations of other lanes. -/
theorem execAll_sameAgentByAgent {is js : List Instr} {s t : State} (hs : s.corePh = .run)
    (hagents : sameAgentByAgent is js) (h : execAll is s = some t) :
    ∃ u, execAll js s = some u ∧ t.sameUpToOutOrder u := by
  induction js generalizing is s t with
  | nil =>
    obtain rfl := eq_nil_of_sameAgentByAgent_nil hagents
    exact ⟨t, h, sameUpToOutOrder_refl t⟩
  | cons j js ih =>
    obtain ⟨before, rest, rfl, hne, hagents⟩ := sameAgentByAgent_cons hagents
    obtain ⟨u, hu, htu⟩ := execAll_move_to_front hs hne h
    obtain ⟨k, hk, hu⟩ := (execAll_cons_eq_some_iff hs).1 hu
    obtain ⟨v, hv, huv⟩ := ih (s := s.perform j k) hs hagents hu
    exact ⟨v, (execAll_cons_eq_some_iff hs).2 ⟨k, hk, hv⟩, sameUpToOutOrder_trans htu huv⟩

/-- Settles O50: any two interleavings of the lanes' sequences lead to one state, but for the order of OUT. -/
theorem endStateIgnoresInterleaving : Obligations.EndStateIgnoresInterleaving := by
  intro s t is js hs hagents h
  obtain ⟨u, hu, o, rfl, ho⟩ := execAll_sameAgentByAgent hs hagents h
  exact ⟨_, hu, rfl, ho⟩

end Sys2Proof.Machine
end

section
/-! PROOFS. The operation word (30_encoding.md): its two fields, decoding by them and encoding as its inverse (R53 to
R58), and what a word of a trace makes of the step (R55, R56, R65). -/

namespace Sys2Proof.Machine

open Sys2Proof

/-! ### The fields of a word (R53) -/

@[simp] theorem opcField_toNat (w : OpWord) : (opcField w).toNat = w.toNat / 16 := by
  have hfield : (opcField w).toNat = w.toNat / 16 ^ 1 % 16 := extract_nibble_toNat w 1
  have hw := w.isLt
  omega

@[simp] theorem laneField_toNat (w : OpWord) : (laneField w).toNat = w.toNat % 16 := by
  have hfield : (laneField w).toNat = w.toNat / 16 ^ 0 % 16 := extract_nibble_toNat w 0
  omega

theorem laneField_eq_ofNat (w : OpWord) : laneField w = BitVec.ofNat 4 (w.toNat % 16) := by
  rw [← laneField_toNat, BitVec.ofNat_toNat, BitVec.setWidth_eq]

@[simp] theorem assembleWord_toNat (opc : BitVec 4) (lane : LaneIdx) :
    (assembleWord opc lane).toNat = 16 * opc.toNat + lane.toNat := by
  rw [assembleWord, BitVec.toNat_append, ← Nat.shiftLeft_add_eq_or_of_lt lane.isLt, Nat.shiftLeft_eq, Nat.mul_comm]

/-- A word is its two fields put together. -/
theorem assembleWord_eq {w : OpWord} {opc : BitVec 4} {lane : LaneIdx} (hopc : w.toNat / 16 = opc.toNat)
    (hlane : w.toNat % 16 = lane.toNat) : assembleWord opc lane = w := by
  refine BitVec.eq_of_toNat_eq ?_
  rw [assembleWord_toNat, ← hopc, ← hlane, Nat.div_add_mod]

/-! ### The operation the fields spell (R54, R56) -/

theorem decodeFields_of_opc_eq_zero {w : OpWord} (h : w.toNat / 16 = 0) :
    decodeFields w = if w.toNat % 16 = 0 then some .check else none := by
  simp [decodeFields, h]

theorem decodeFields_of_opc_eq_one {w : OpWord} (h : w.toNat / 16 = 1) :
    decodeFields w = some (.seed (laneField w)) := by
  simp [decodeFields, h]

theorem decodeFields_of_opc_eq_two {w : OpWord} (h : w.toNat / 16 = 2) :
    decodeFields w = some (.step (laneField w)) := by
  simp [decodeFields, h]

theorem decodeFields_of_opc_eq_three {w : OpWord} (h : w.toNat / 16 = 3) :
    decodeFields w = some (.report (laneField w)) := by
  simp [decodeFields, h]

theorem decodeFields_of_four_le_opc {w : OpWord} (h : 4 ≤ w.toNat / 16) : decodeFields w = none := by
  obtain ⟨n, hn⟩ := Nat.exists_eq_add_of_le' h
  simp [decodeFields, hn]

/-- The codes of the three lane operations (R54): the word spells an operation on the lane its `LANE` names. -/
theorem decodeFields_of_lane_opc {w : OpWord} (hlow : 1 ≤ w.toNat / 16) (hhigh : w.toNat / 16 ≤ 3) :
    ∃ i, decodeFields w = some i ∧ ∀ c, i.wellFormed c = decide (w.toNat % 16 < c.w) := by
  obtain h | h | h : w.toNat / 16 = 1 ∨ w.toNat / 16 = 2 ∨ w.toNat / 16 = 3 := by omega
  · exact ⟨_, decodeFields_of_opc_eq_one h, fun c => by rw [Instr.wellFormed, laneField_toNat]⟩
  · exact ⟨_, decodeFields_of_opc_eq_two h, fun c => by rw [Instr.wellFormed, laneField_toNat]⟩
  · exact ⟨_, decodeFields_of_opc_eq_three h, fun c => by rw [Instr.wellFormed, laneField_toNat]⟩

/-- The fields of a word spell an operation exactly when the word is that operation's. -/
theorem decodeFields_eq_some_iff {w : OpWord} {i : Instr} : decodeFields w = some i ↔ encode i = w := by
  refine ⟨fun h => ?_, fun h => h ▸ decodeFields_encode i⟩
  obtain hopc | hopc | hopc | hopc | hopc : w.toNat / 16 = 0 ∨ w.toNat / 16 = 1 ∨ w.toNat / 16 = 2 ∨
    w.toNat / 16 = 3 ∨ 4 ≤ w.toNat / 16 := by omega
  · rw [decodeFields_of_opc_eq_zero hopc] at h
    split at h
    · rename_i hlane
      cases h
      exact assembleWord_eq hopc hlane
    · cases h
  · rw [decodeFields_of_opc_eq_one hopc] at h
    cases h
    exact assembleWord_eq hopc (laneField_toNat w).symm
  · rw [decodeFields_of_opc_eq_two hopc] at h
    cases h
    exact assembleWord_eq hopc (laneField_toNat w).symm
  · rw [decodeFields_of_opc_eq_three hopc] at h
    cases h
    exact assembleWord_eq hopc (laneField_toNat w).symm
  · rw [decodeFields_of_four_le_opc hopc] at h
    cases h

/-! ### Decoding (R58) -/

theorem decode_eq_illegal {w : OpWord} (h : decodeFields w = none) (c : Config) : decode c w = .illegal w := by
  simp [decode, h]

theorem decode_eq_instr {c : Config} {w : OpWord} {i : Instr} (h : decodeFields w = some i)
    (hi : i.wellFormed c = true) : decode c w = .instr i := by
  obtain rfl := decodeFields_eq_some_iff.1 h
  exact decode_encode_of_wellFormed hi

theorem decode_eq_badLane {c : Config} {w : OpWord} {i : Instr} (h : decodeFields w = some i)
    (hi : i.wellFormed c = false) : decode c w = .badLane w := by
  obtain rfl := decodeFields_eq_some_iff.1 h
  exact decode_encode_of_not_wellFormed hi

/-- The words that decode to an operation: its own word alone, and only in a build that has its lane. -/
theorem decode_eq_instr_iff {c : Config} {w : OpWord} {i : Instr} :
    decode c w = .instr i ↔ encode i = w ∧ i.wellFormed c = true := by
  refine ⟨fun h => ?_, fun ⟨hw, hi⟩ => decode_eq_instr (decodeFields_eq_some_iff.2 hw) hi⟩
  cases hd : decodeFields w with
  | none => rw [decode_eq_illegal hd] at h; cases h
  | some j =>
    cases hj : j.wellFormed c with
    | false => rw [decode_eq_badLane hd hj] at h; cases h
    | true =>
      rw [decode_eq_instr hd hj] at h
      cases h
      exact ⟨decodeFields_eq_some_iff.1 hd, hj⟩

/-- Settles O1: the two directions of one equivalence, whose content is that a word is its two fields. -/
theorem decodeAndEncodeAgree : Obligations.DecodeAndEncodeAgree :=
  fun _ _ => ⟨fun hi => decode_eq_instr_iff.2 ⟨rfl, hi⟩, fun _ h => decode_eq_instr_iff.1 h⟩

/-- Settles O2, one clause per test of R58. -/
theorem decodingFollowsItsTests : Obligations.DecodingFollowsItsTests := by
  intro c w
  rw [← laneField_eq_ofNat]
  refine ⟨fun ⟨hopc, hlane⟩ => ?_, fun ⟨hopc, hlane⟩ => ?_, fun ⟨hlow, hhigh, hlane⟩ => ?_,
    fun ⟨hopc, hlane⟩ => ?_, fun ⟨hopc, hlane⟩ => ?_, fun ⟨hopc, hlane⟩ => ?_, fun hopc => ?_⟩
  · exact decode_eq_instr (by rw [decodeFields_of_opc_eq_zero hopc, if_pos hlane]) rfl
  · exact decode_eq_illegal (by rw [decodeFields_of_opc_eq_zero hopc, if_neg hlane]) c
  · obtain ⟨i, hi, hwf⟩ := decodeFields_of_lane_opc hlow hhigh
    exact decode_eq_badLane hi (by rw [hwf]; exact decide_eq_false (Nat.not_lt.2 hlane))
  · exact decode_eq_instr (decodeFields_of_opc_eq_one hopc) (by simpa [Instr.wellFormed] using hlane)
  · exact decode_eq_instr (decodeFields_of_opc_eq_two hopc) (by simpa [Instr.wellFormed] using hlane)
  · exact decode_eq_instr (decodeFields_of_opc_eq_three hopc) (by simpa [Instr.wellFormed] using hlane)
  · exact decode_eq_illegal (decodeFields_of_four_le_opc hopc) c

/-- Settles O3: seven words, evaluated. -/
theorem writtenOutWordsDecode : Obligations.WrittenOutWordsDecode := by
  unfold Obligations.WrittenOutWordsDecode
  decide

/-! ### A lane the build does not have (R55, R103) -/

/-- The fault action (R98), by the values it records. -/
theorem raise_eq_afterFault (s : State) (c : FaultCause) (op : OpWord) (wenv : Option Nat) :
    s.raise c op wenv = s.afterFault c.code op wenv := rfl

/-- For a missing lane the guard and the body do not matter: BAD_LANE comes first (R103). -/
theorem laneOperation_eq_badLane {s : State} {k : LaneIdx} (hl : s.live = true) (hk : s.cfg.w ≤ k.toNat)
    (i : Instr) (g : Bool) (b : State) : laneOperation i k g b s = .next (s.afterFault 3 (encode i) none) := by
  rw [laneOperation, operate_live hl, if_pos hk, raise_eq_afterFault, FaultCause.code]

/-- Settles O24: each lane operation asks for its lane before anything of its own, and CHECK has no lane. -/
theorem missingLaneIsBadLane : Obligations.MissingLaneIsBadLane := by
  intro i s hl hi
  cases i with
  | check => cases hi
  | seed k => exact laneOperation_eq_badLane hl (Nat.not_lt.1 (of_decide_eq_false hi)) _ _ _
  | step k => exact laneOperation_eq_badLane hl (Nat.not_lt.1 (of_decide_eq_false hi)) _ _ _
  | report k => exact laneOperation_eq_badLane hl (Nat.not_lt.1 (of_decide_eq_false hi)) _ _ _

/-! ### A word of a trace (R65, R81) -/

/-- A live block takes the word presented and performs it. -/
theorem step_eq_performWord {s : State} {w : OpWord} {rest : List Input} (hl : s.live = true)
    (hin : s.inputs = .word w :: rest) : step s = performWord w { s with inputs := rest } := by
  obtain ⟨hb, hh⟩ := (live_iff s).1 hl
  simp [step, advance, takeInput, hb, hh, hin]

theorem performWord_of_instr {s : State} {w : OpWord} {i : Instr} (h : decode s.cfg w = .instr i) :
    performWord w s = exec i s := by
  simp [performWord, h]

theorem performWord_of_illegal {s : State} {w : OpWord} (hl : s.live = true) (h : decode s.cfg w = .illegal w) :
    performWord w s = .next (s.afterFault 2 w none) := by
  simp [performWord, h, operate_live hl, raise_eq_afterFault, FaultCause.code]

/-- Settles O30: the word is taken, then decoded. -/
theorem stepPerformsTheWord : Obligations.StepPerformsTheWord := by
  intro s w rest i hl hin hd
  rw [step_eq_performWord hl hin]
  exact performWord_of_instr (s := { s with inputs := rest }) hd

/-- Settles O25: both reserved ranges decode as illegal (R58), in every build. -/
theorem reservedWordIsIllegalOp : Obligations.ReservedWordIsIllegalOp := by
  intro s w rest hl hin hw
  obtain ⟨-, hcheck, -, -, -, -, hreserved⟩ := decodingFollowsItsTests s.cfg w
  have hd : decode s.cfg w = .illegal w := by
    obtain ⟨hlow, hhigh⟩ | hhigh := hw
    · exact hcheck (by omega)
    · exact hreserved (by omega)
  rw [step_eq_performWord hl hin]
  exact performWord_of_illegal (s := { s with inputs := rest }) hl hd

end Sys2Proof.Machine
end

section
/-! PROOFS. The output lines (R59 to R61): a Match line by its positions, and the decimal numeral of a number against
Mathlib's `Nat.digits`. -/

namespace Sys2Proof.Machine

open Sys2Proof

/-! ### The line of a Match (R36, R59) -/

/-- The digit of a line position below `D` stands at the mirrored position of the buffer. -/
theorem matchLine_getElem?_of_lt {b : Buffer} {j : Nat} (h : j < b.length) :
    (matchLine b)[j]? = (digitRead b (b.length - 1 - j)).map asciiDigit := by
  rw [matchLine, List.getElem?_append_left (by simpa using h), List.getElem?_map, List.getElem?_reverse h, digitRead]

theorem matchLine_getElem?_length (b : Buffer) : (matchLine b)[b.length]? = some lineFeed := by
  simp [matchLine]

@[simp] theorem matchLine_length (b : Buffer) : (matchLine b).length = b.length + 1 := by
  simp [matchLine]

/-- Settles O52: the digits from the top, then the terminator. -/
theorem matchLineFormat : Obligations.MatchLineFormat := by
  refine fun b => ⟨matchLine_length b, fun j d hj hd => ?_, matchLine_getElem?_length b⟩
  rw [matchLine_getElem?_of_lt hj, hd, Option.map_some, asciiDigit]

/-! ### The digits of a number (R61) -/

/-- With enough fuel the digits of a number that is not 0 are Mathlib's. -/
theorem decDigits_map_val {fuel v : Nat} (hpos : 0 < v) (hfuel : v < 2 ^ fuel) :
    (decDigits fuel v).map Fin.val = Nat.digits 10 v := by
  induction fuel generalizing v with
  | zero => rw [pow_zero] at hfuel; omega
  | succ fuel ih =>
    rw [decDigits, Nat.digits_def' (by decide) hpos]
    split
    · have hdiv : v / 10 = 0 := by omega
      simp [hdiv]
    · rw [List.map_cons, digitOf_val, ih (by omega) (by rw [Nat.pow_succ] at hfuel; omega)]

/-- The numeral of a number that is not 0 holds its digits, most significant first. -/
theorem decNumeral_map_val {v : Nat} (h : v ≠ 0) : (decNumeral v).map Fin.val = (Nat.digits 10 v).reverse := by
  rw [decNumeral, List.map_reverse, decDigits_map_val (Nat.pos_of_ne_zero h) Nat.lt_log2_self]

@[simp] theorem decNumeral_zero : decNumeral 0 = [0] := rfl

/-- The numeral read from its most significant digit has the number's value. -/
theorem decNumeral_foldl (v : Nat) : (decNumeral v).foldl (fun a d => 10 * a + d.val) 0 = v := by
  by_cases h : v = 0
  · subst h; rfl
  · calc (decNumeral v).foldl (fun a d => 10 * a + d.val) 0
        = ((decNumeral v).map Fin.val).foldl (fun a x => 10 * a + x) 0 := by rw [List.foldl_map]
      _ = (Nat.digits 10 v).foldr (fun x a => x + 10 * a) 0 := by
          rw [decNumeral_map_val h, List.foldl_reverse]
          simp only [Nat.add_comm]
      _ = v := by
          have hof := Nat.ofDigits_digits 10 v
          rwa [Nat.ofDigits_eq_foldr] at hof

theorem decNumeral_ne_nil (v : Nat) : decNumeral v ≠ [] := by
  by_cases h : v = 0
  · simp [h]
  · intro hnil
    have hdigits : Nat.digits 10 v = [] := by simpa [hnil] using (decNumeral_map_val h).symm
    exact h (Nat.digits_eq_nil_iff_eq_zero.1 hdigits)

/-- A number below `10^n` has a numeral of at most `n` digits; only 0 makes `n ≥ 1` needed. -/
theorem decNumeral_length_le {v n : Nat} (hn : 1 ≤ n) (h : v < 10 ^ n) : (decNumeral v).length ≤ n := by
  by_cases hv : v = 0
  · simpa [hv] using hn
  · rw [← List.length_map (f := Fin.val), decNumeral_map_val hv, List.length_reverse]
    exact (Nat.digits_length_le_iff (by decide) v).2 h

/-- No leading zero, but for the numeral of 0. -/
theorem decNumeral_head?_ne_zero {v : Nat} (h : v ≠ 0) : (decNumeral v).head? ≠ some 0 := by
  intro hhead
  have hlast : (Nat.digits 10 v).getLast? = some 0 := by
    rw [← List.head?_reverse, ← decNumeral_map_val h, List.head?_map, hhead]
    rfl
  obtain ⟨hne, hzero⟩ := List.mem_getLast?_eq_getLast hlast
  exact Nat.getLast_digit_ne_zero 10 h hzero.symm

/-! ### The line of a Progress (R60, R61) -/

@[simp] theorem asciiDigit_toNat (d : Digit) : (asciiDigit d).toNat = 0x30 + d.val := by
  rw [asciiDigit, BitVec.toNat_ofNat]
  omega

@[simp] theorem dec_length (v : Nat) : (dec v).length = (decNumeral v).length := by simp [dec]

theorem dec_digit_range {v : Nat} {x : Byte} (h : x ∈ dec v) : 0x30 ≤ x.toNat ∧ x.toNat ≤ 0x39 := by
  obtain ⟨d, -, rfl⟩ := List.mem_map.1 h
  rw [asciiDigit_toNat]
  omega

theorem dec_foldl (v : Nat) : (dec v).foldl (fun a x => 10 * a + (x.toNat - 0x30)) 0 = v := by
  simpa [dec, List.foldl_map] using decNumeral_foldl v

theorem dec_head?_ne_zero {v : Nat} (h : v ≠ 0) : (dec v).head? ≠ some 0x30 := by
  rw [dec, List.head?_map]
  intro hhead
  obtain ⟨d, hd, hcode⟩ := Option.map_eq_some_iff.1 hhead
  have hval : 0x30 + d.val = 0x30 := by rw [← asciiDigit_toNat, hcode]; rfl
  obtain rfl : d = 0 := Fin.ext (by simpa using hval)
  exact decNumeral_head?_ne_zero h hd

/-- Settles O53: the numeral is the digits of the number, so its value, its first digit and its length are theirs. -/
theorem progressLinePrintsMinimalNumerals : Obligations.ProgressLinePrintsMinimalNumerals := by
  refine ⟨fun c k => ⟨rfl, ?_, ?_⟩, fun v => ⟨fun x hx => dec_digit_range hx, dec_foldl v, ?_,
    dec_head?_ne_zero⟩, rfl⟩
  · rw [dec_length]
    exact decNumeral_length_le (by decide) (c.isLt.trans (by decide))
  · rw [dec_length]
    exact decNumeral_length_le (by decide) (k.isLt.trans (by decide))
  · rw [dec_length]
    exact List.length_pos_iff.2 (decNumeral_ne_nil v)

end Sys2Proof.Machine
end

section
/-! PROOFS. The lines of a trace (R63, R64): the parts of a line, a numeral read back, and the words of each form of
line. -/

namespace Sys2Proof.Machine

open Sys2Proof

/-! ### The parts of a line -/

/-- A character of a mnemonic or a numeral: it neither separates parts nor starts a comment (R63). -/
def isPlain (c : Char) : Bool := !isBlank c && c != ',' && c != ';'

theorem isPlain_iff (c : Char) : isPlain c = true ↔ isBlank c = false ∧ c ≠ ',' ∧ c ≠ ';' := by
  simp [isPlain, and_assoc]

/-- A comment starts in no plain character. -/
theorem stripComment_append {m : Text} (h : ∀ c ∈ m, isPlain c = true) (t : Text) :
    stripComment (m ++ t) = m ++ stripComment t :=
  List.takeWhile_append_of_pos fun c hc => by
    obtain ⟨-, -, hcomment⟩ := (isPlain_iff c).1 (h c hc)
    simpa using hcomment

theorem stripComment_cons {c : Char} (h : c ≠ ';') (t : Text) : stripComment (c :: t) = c :: stripComment t :=
  List.takeWhile_cons_of_pos (by simpa using h)

theorem addToParts_space (parts : List Text) : addToParts ' ' parts = [] :: parts := rfl

theorem addToParts_comma (parts : List Text) : addToParts ',' parts = [] :: [','] :: parts := rfl

theorem addToParts_of_isPlain {c : Char} (h : isPlain c = true) (p : Text) (ps : List Text) :
    addToParts c (p :: ps) = (c :: p) :: ps := by
  obtain ⟨hblank, hcomma, -⟩ := (isPlain_iff c).1 h
  simp [addToParts, hblank, hcomma]

/-- Plain characters all go in front of the part read last. -/
theorem foldr_addToParts_of_isPlain {m : Text} (h : ∀ c ∈ m, isPlain c = true) (p : Text) (ps : List Text) :
    m.foldr addToParts (p :: ps) = (m ++ p) :: ps := by
  induction m with
  | nil => rfl
  | cons c cs ih =>
    obtain ⟨hc, hcs⟩ := List.forall_mem_cons.1 h
    rw [List.foldr_cons, ih hcs, addToParts_of_isPlain hc, List.cons_append]

/-- `m` is one part of a line: plain characters, and at least one. -/
structure IsPart (m : Text) : Prop where
  ne_nil : m ≠ []
  plain : ∀ c ∈ m, isPlain c = true

/-- A part is not empty, so it is kept among the parts of the line. -/
theorem filter_parts_cons {m : Text} (h : IsPart m) (ps : List Text) :
    ((m :: ps).filter fun p => !p.isEmpty) = m :: ps.filter fun p => !p.isEmpty :=
  List.filter_cons_of_pos (by simpa using h.ne_nil)

/-- The parts of a line up to its comment: what `assembleLine` looks at. -/
def codeParts (t : Text) : List Text := lineParts (stripComment t)

theorem codeParts_of_isPart {m : Text} (h : IsPart m) : codeParts m = [m] := by
  have hstrip : stripComment m = m := by simpa [stripComment] using stripComment_append h.plain []
  rw [codeParts, hstrip, lineParts, foldr_addToParts_of_isPlain h.plain, List.append_nil, filter_parts_cons h]
  rfl

/-- A space before a part makes no part of its own. -/
theorem codeParts_space_cons (t : Text) : codeParts (' ' :: t) = codeParts t := by
  rw [codeParts, stripComment_cons (by decide), lineParts, List.foldr_cons, addToParts_space]
  rfl

/-- A space ends a part. -/
theorem codeParts_append_space {m : Text} (h : IsPart m) (t : Text) :
    codeParts (m ++ ' ' :: t) = m :: codeParts t := by
  rw [codeParts, stripComment_append h.plain, stripComment_cons (by decide), lineParts, List.foldr_append,
    List.foldr_cons, addToParts_space, foldr_addToParts_of_isPlain h.plain, List.append_nil, filter_parts_cons h]
  rfl

/-- A comma ends a part, and is one itself. -/
theorem codeParts_append_comma {m : Text} (h : IsPart m) (t : Text) :
    codeParts (m ++ ',' :: t) = m :: [','] :: codeParts t := by
  rw [codeParts, stripComment_append h.plain, stripComment_cons (by decide), lineParts, List.foldr_append,
    List.foldr_cons, addToParts_comma, foldr_addToParts_of_isPlain h.plain, List.append_nil, filter_parts_cons h]
  rfl

/-! ### Numerals (R63) -/

theorem charDigit_ofNat (d : Digit) : charDigit (Char.ofNat (48 + d.val)) = some d.val := by
  revert d; decide

theorem isPlain_ofNat (d : Digit) : isPlain (Char.ofNat (48 + d.val)) = true := by
  revert d; decide

theorem numberText_isPart (n : Nat) : IsPart (numberText n) where
  ne_nil := by simpa [numberText] using decNumeral_ne_nil n
  plain c hc := by
    obtain ⟨d, -, rfl⟩ := List.mem_map.1 hc
    exact isPlain_ofNat d

theorem readFrom_map_digits (v : Nat) (ds : Buffer) :
    readFrom v (ds.map fun d => Char.ofNat (48 + d.val)) = some (ds.foldl (fun a d => 10 * a + d.val) v) := by
  induction ds generalizing v with
  | nil => rfl
  | cons d ds ih => simp [readFrom, charDigit_ofNat, ih]

/-- The numeral of a number reads back as the number. -/
theorem readNat_numberText (n : Nat) : readNat (numberText n) = some n := by
  have hne : ¬(numberText n).isEmpty := by simpa using (numberText_isPart n).ne_nil
  rw [readNat, if_neg hne, numberText, readFrom_map_digits, decNumeral_foldl]

theorem laneText_isPart (k : LaneIdx) : IsPart (laneText k) := numberText_isPart k.toNat

theorem readLane_laneText (k : LaneIdx) : readLane (laneText k) = some k := by
  simp [readLane, laneText, readNat_numberText, k.isLt]

/-! ### A line with a mnemonic and a lane number (R63) -/

theorem assembleLine_of_two_parts {c : Config} {t m : Text} {k : LaneIdx} (h : codeParts t = [m, laneText k]) :
    assembleLine c t = assembleLaneLine c m k := by
  rw [codeParts] at h
  simp [assembleLine, h, readLane_laneText]

theorem assembleLine_lane (c : Config) {m : Text} (h : IsPart m) (k : LaneIdx) :
    assembleLine c (m ++ ' ' :: laneText k) = assembleLaneLine c m k :=
  assembleLine_of_two_parts (by rw [codeParts_append_space h, codeParts_of_isPart (laneText_isPart k)])

theorem mnemonicText_isPart (i : Instr) : IsPart (mnemonicText i) := by
  cases i with
  | check => exact ⟨by simp [mnemonicText], by simp [mnemonicText, isPlain, isBlank]⟩
  | seed k => exact ⟨by simp [mnemonicText], by simp [mnemonicText, isPlain, isBlank]⟩
  | step k => exact ⟨by simp [mnemonicText], by simp [mnemonicText, isPlain, isBlank]⟩
  | report k => exact ⟨by simp [mnemonicText], by simp [mnemonicText, isPlain, isBlank]⟩

/-- Settles O4: a lane operation's line has two parts, its mnemonic and its lane number. -/
theorem operationLinesAssemble : Obligations.OperationLinesAssemble := by
  intro c i
  cases i with
  | check => rfl
  | seed k => exact (assembleLine_lane c (mnemonicText_isPart _) k).trans rfl
  | step k => exact (assembleLine_lane c (mnemonicText_isPart _) k).trans rfl
  | report k => exact (assembleLine_lane c (mnemonicText_isPart _) k).trans rfl

/-! ### The pseudo-operations (R64) -/

theorem batch_isPart : IsPart ['b', 'a', 't', 'c', 'h'] := ⟨by decide, by simp [isPlain, isBlank]⟩

theorem steps_isPart : IsPart ['s', 't', 'e', 'p', 's'] := ⟨by decide, by simp [isPlain, isBlank]⟩

theorem assembleLine_boot (c : Config) : assembleLine c ['b', 'o', 'o', 't'] = some (bootWords c) := rfl

theorem assembleLine_batch (c : Config) (k : LaneIdx) :
    assembleLine c (['b', 'a', 't', 'c', 'h'] ++ ' ' :: laneText k) = some (batchWords c k) :=
  (assembleLine_lane c batch_isPart k).trans rfl

theorem codeParts_steps (k : LaneIdx) (m : Nat) :
    codeParts (['s', 't', 'e', 'p', 's'] ++ ' ' :: (laneText k ++ ',' :: ' ' :: numberText m)) =
      [['s', 't', 'e', 'p', 's'], laneText k, [','], numberText m] := by
  rw [codeParts_append_space steps_isPart, codeParts_append_comma (laneText_isPart k), codeParts_space_cons,
    codeParts_of_isPart (numberText_isPart m)]

theorem assembleLine_steps (c : Config) (k : LaneIdx) (m : Nat) :
    assembleLine c (['s', 't', 'e', 'p', 's'] ++ ' ' :: (laneText k ++ ',' :: ' ' :: numberText m)) =
      some (stepsWords k m) := by
  have hparts := codeParts_steps k m
  rw [codeParts] at hparts
  simp only [assembleLine, hparts, readLane_laneText, readNat_numberText, and_self, if_true]

/-- Settles O5: each form of line is read part by part, and expands as its words are defined. -/
theorem pseudoOperationsExpand : Obligations.PseudoOperationsExpand := by
  intro c k m
  refine ⟨assembleLine_boot c, ?_, assembleLine_batch c k⟩
  simpa [stepsWords, laneText] using assembleLine_steps c k m

end Sys2Proof.Machine
end

section
/-! PROOFS. The multiplier (40_multiplier.md): the cell multiplies and adds (R67 to R70), the pass is multiplication by
the factor on encodings (R71 to R74), and its flag is the evenness of every digit it leaves (R75, R79). -/

namespace Sys2Proof.Machine

open Sys2Proof

/-! ### The digit cell (R67 to R70) -/

/-- R69's `u = 10*a*d + t`: the split of the factor undone. -/
theorem split_mul_add (f d cin : Nat) : f * d + cin = f % 10 * d + cin + 10 * (f / 10 * d) :=
  calc f * d + cin
      = (f % 10 + 10 * (f / 10)) * d + cin := by rw [Nat.mod_add_div]
    _ = f % 10 * d + cin + 10 * (f / 10 * d) := by ring

theorem cell_digit (f : Nat) (d : Digit) (cin : Nat) : (cell f d cin).1 = digitOf (f * d.val + cin) :=
  Fin.ext (by rw [split_mul_add f d.val cin, digitOf_val, Nat.add_mul_mod_self_left]; rfl)

theorem cell_carry (f : Nat) (d : Digit) (cin : Nat) : (cell f d cin).2 = (f * d.val + cin) / 10 := by
  rw [split_mul_add f d.val cin, Nat.add_mul_div_left _ _ (by decide), Nat.add_comm]
  rfl

/-- Settles O6: `16 div 10 = 1` and `16 mod 10 = 6`. -/
theorem referenceCellIsTheCellAt16 : Obligations.ReferenceCellIsTheCellAt16 := by
  intro d cin
  simp [cell, cell16]

/-- Settles O7: the split's digit and carry are those of the number it splits. -/
theorem cellIsMultiplyAdd : Obligations.CellIsMultiplyAdd := fun f d cin =>
  ⟨congrArg Fin.val (cell_digit f d cin), cell_carry f d cin⟩

/-- Settles O8: a digit is at most 9, so the cell's `F*d + cin` is below `9*F + F`. -/
theorem cellCarryStaysBelowFactor : Obligations.CellCarryStaysBelowFactor := by
  intro f d cin hcin
  have hdigit (x : Digit) : x.val ≤ 9 := Nat.le_of_lt_succ x.isLt
  have hmul : f * d.val ≤ f * 9 := Nat.mul_le_mul_left f (hdigit d)
  refine ⟨hdigit _, ?_⟩
  rw [cell_carry]
  omega

/-! ### Values and encodings (R8) -/

theorem val_lt (b : Buffer) : val b < 10 ^ b.length := by
  rw [← enc_val b, val_enc, enc_length]
  exact Nat.mod_lt _ (by positivity)

theorem val_append (low high : Buffer) : val (low ++ high) = val low + 10 ^ low.length * val high := by
  induction low with
  | nil => simp
  | cons d ds ih => rw [List.cons_append, val_cons, val_cons, ih, List.length_cons, Nat.pow_succ']; ring

/-- The low digits of a buffer stand for its value without what the others add. -/
theorem val_take {b : Buffer} {i : Nat} (hi : i ≤ b.length) : val (b.take i) = val b % 10 ^ i := by
  have hlen : (b.take i).length = i := List.length_take_of_le hi
  have hlow : val (b.take i) < 10 ^ i := (val_lt (b.take i)).trans_eq (by rw [hlen])
  calc val (b.take i)
      = (val (b.take i) + 10 ^ i * val (b.drop i)) % 10 ^ i := by
        rw [Nat.add_mul_mod_self_left, Nat.mod_eq_of_lt hlow]
    _ = val b % 10 ^ i := by
        have h := val_append (b.take i) (b.drop i)
        rw [List.take_append_drop, hlen] at h
        rw [h]

/-- An encoding is determined by its number modulo `10^D`. -/
theorem enc_eq_enc_iff {d v w : Nat} : enc d v = enc d w ↔ v % 10 ^ d = w % 10 ^ d := by
  have hround (u : Nat) : enc d (u % 10 ^ d) = enc d u := by
    simpa [val_enc] using enc_val (enc d u)
  constructor
  · intro h
    rw [← val_enc, ← val_enc, h]
  · intro h
    rw [← hround v, ← hround w, h]

theorem val_replicate_zero (n : Nat) : val (List.replicate n 0) = 0 := by
  induction n with
  | zero => rfl
  | succ n ih => simp [List.replicate_succ, ih]

theorem val_replicate_nine (n : Nat) : val (List.replicate n 9) + 1 = 10 ^ n := by
  induction n with
  | zero => rfl
  | succ n ih =>
    have hnine : (9 : Digit).val = 9 := rfl
    rw [List.replicate_succ, val_cons, Nat.pow_succ', ← ih, hnine]
    ring

/-- The numbers that encode to a buffer of zeros. -/
theorem enc_eq_zeros_iff {d v : Nat} : enc d v = List.replicate d 0 ↔ 10 ^ d ∣ v := by
  have hzeros : enc d 0 = List.replicate d 0 := by
    simpa [val_replicate_zero] using enc_val (List.replicate d 0)
  rw [← hzeros, enc_eq_enc_iff, Nat.zero_mod, Nat.dvd_iff_mod_eq_zero]

/-! ### The pass (R71 to R73) -/

/-- The number the pass works on, with the first position's part taken out. -/
theorem mulAdd_cons (f c : Nat) (d : Digit) (ds : Buffer) :
    f * val (d :: ds) + c = f * d.val + c + 10 * (f * val ds) := by
  rw [val_cons]
  ring

/-- The number left to the positions above the first one. -/
theorem mulAdd_cons_div_ten (f c : Nat) (d : Digit) (ds : Buffer) :
    (f * val (d :: ds) + c) / 10 = f * val ds + (cell f d c).2 := by
  rw [cell_carry, mulAdd_cons, Nat.add_mul_div_left _ _ (by decide), Nat.add_comm]

/-- The pass from carry `c` writes the low digits of `F * V + c`. -/
theorem passFrom_buf (f c : Nat) (p : Bool) (b : Buffer) :
    (passFrom f c p b).buf = enc b.length (f * val b + c) := by
  induction b generalizing c p with
  | nil => rfl
  | cons d ds ih =>
    have hdigit : (cell f d c).1 = digitOf (f * val (d :: ds) + c) := by
      rw [cell_digit, mulAdd_cons]
      exact Fin.ext (Nat.add_mul_mod_self_left _ _ _).symm
    rw [passFrom_cons, List.length_cons, enc_succ, ← hdigit, mulAdd_cons_div_ten, ih]

/-- The pass from carry `c` hands on what stands above the low digits of `F * V + c`. -/
theorem passFrom_carry (f c : Nat) (p : Bool) (b : Buffer) :
    (passFrom f c p b).carry = (f * val b + c) / 10 ^ b.length := by
  induction b generalizing c p with
  | nil => simp
  | cons d ds ih =>
    rw [passFrom_cons, ih, ← mulAdd_cons_div_ten, Nat.div_div_eq_div_mul, List.length_cons, Nat.pow_succ']

/-- The parity accumulator is the AND of evenness over the digits written. -/
theorem passFrom_parity (f c : Nat) (p : Bool) (b : Buffer) :
    (passFrom f c p b).parity = (p && allEven (passFrom f c p b).buf) := by
  induction b generalizing c p with
  | nil => simp
  | cons d ds ih => rw [passFrom_cons, ih, allEven_cons, Bool.and_assoc]

/-- The pass works upwards: it writes the low digits first, and the high ones from the carry and parity these leave. -/
theorem passFrom_append_buf (f c : Nat) (p : Bool) (low high : Buffer) :
    (passFrom f c p (low ++ high)).buf =
      (passFrom f c p low).buf ++
        (passFrom f (passFrom f c p low).carry (passFrom f c p low).parity high).buf := by
  induction low generalizing c p with
  | nil => rfl
  | cons d ds ih => simp only [List.cons_append, passFrom_cons, ih]

theorem mulPassCarry_buf (f : Nat) (b : Buffer) : (mulPassCarry f b).buf = enc b.length (f * val b) :=
  passFrom_buf f 0 true b

theorem mulPassCarry_carry (f : Nat) (b : Buffer) : (mulPassCarry f b).carry = f * val b / 10 ^ b.length :=
  passFrom_carry f 0 true b

/-- The flag of the pass is the evenness of the buffer it leaves (R75). -/
theorem mulPass_flag (f : Nat) (b : Buffer) : (mulPass f b).2 = allEven (mulPass f b).1 :=
  passFrom_parity f 0 true b

/-- The pass is multiplication by the factor on encodings, with the evenness of the product (R74, R75). -/
theorem mulPass_eq (f : Nat) (b : Buffer) :
    mulPass f b = (enc b.length (f * val b), allEven (enc b.length (f * val b))) := by
  rw [← mulPassCarry_buf]
  exact Prod.ext rfl (mulPass_flag f b)

/-- Settles O9: the pass over the low `i` digits multiplies `V mod 10^i`, and its carry and its digits are the quotient
and the remainder of the product by `10^i`. -/
theorem passCarryInvariant : Obligations.PassCarryInvariant := by
  intro f b hf
  refine ⟨fun i hi => ?_, rfl, mulPassCarry_carry f b⟩
  have hlen : (b.take i).length = i := List.length_take_of_le hi
  have hcarry : (mulPassCarry f (b.take i)).carry = f * (val b % 10 ^ i) / 10 ^ i := by
    rw [mulPassCarry_carry, hlen, val_take hi]
  have hdigits : val (mulPassCarry f (b.take i)).buf = f * (val b % 10 ^ i) % 10 ^ i := by
    rw [mulPassCarry_buf, val_enc, hlen, val_take hi]
  have hlow : val b % 10 ^ i < 10 ^ i := Nat.mod_lt _ (by positivity)
  have hproduct : f * (val b % 10 ^ i) < 10 ^ i * f := by
    rw [Nat.mul_comm (10 ^ i) f]
    exact Nat.mul_lt_mul_of_pos_left hlow hf
  rw [hdigits, hcarry]
  exact ⟨rfl, Nat.div_lt_of_lt_mul hproduct, Nat.mod_add_div' _ _⟩

/-- Settles O10: the pass writes the encoding of the product, whose value is the product modulo `10^D`. -/
theorem passMultipliesModuloWindow : Obligations.PassMultipliesModuloWindow := by
  intro f b
  have hbuf : (mulPass f b).1 = enc b.length (f * val b) := mulPassCarry_buf f b
  exact ⟨by rw [hbuf, val_enc], hbuf⟩

/-- Settles O11: the pass over the concatenation first writes what the pass over the low buffer writes. -/
theorem lowDigitsIgnoreHighDigits : Obligations.LowDigitsIgnoreHighDigits := by
  intro f b high
  have happend : (mulPass f (b ++ high)).1 = (mulPass f b).1 ++ _ := passFrom_append_buf f 0 true b high
  rw [happend]
  exact List.take_left' (mulPass_length f b)

/-! ### The all-even flag and the corner cases (R75, R79) -/

theorem allEven_iff (b : Buffer) : allEven b = true ↔ ∀ d ∈ b, d.val % 2 = 0 := by
  simp only [allEven, List.all_eq_true, even_iff]

/-- Settles O12: the accumulated parity is `allEven` of the digits written, from the lowest position to the top. -/
theorem flagIsAllEvenOfResult : Obligations.FlagIsAllEvenOfResult := by
  intro f b
  rw [mulPass_flag, allEven_iff]

theorem allEven_replicate_zero (n : Nat) : allEven (List.replicate n 0) = true := by
  rw [allEven_iff]
  intro d hd
  rw [List.eq_of_mem_replicate hd]
  rfl

/-- The pass over one digit discards the whole carry. -/
theorem mulPass_singleton (f : Nat) (d : Digit) :
    mulPass f [d] = ([digitOf (f * d.val)], even (digitOf (f * d.val))) := by
  rw [mulPass_eq]
  simp [enc_succ]

theorem mulPass_eq_zeros_of_dvd {f : Nat} {b : Buffer} (h : 10 ^ b.length ∣ f * val b) :
    mulPass f b = (List.replicate b.length 0, true) := by
  rw [mulPass_eq, enc_eq_zeros_iff.2 h, allEven_replicate_zero]

theorem mulPass_zeros (f n : Nat) : mulPass f (List.replicate n 0) = (List.replicate n 0, true) := by
  have hdvd : 10 ^ (List.replicate n (0 : Digit)).length ∣ f * val (List.replicate n 0) := by
    rw [val_replicate_zero]
    exact Nat.dvd_zero _
  simpa using mulPass_eq_zeros_of_dvd hdvd

/-- All nines stand for `10^D - 1`, and `F * (10^D - 1)` is `10^D - F` above a multiple of `10^D`. -/
theorem val_mulPass_nines {f n : Nat} (hf : 1 ≤ f) (hlt : f < 10 ^ n) :
    val (mulPass f (List.replicate n 9)).1 = 10 ^ n - f := by
  obtain ⟨g, rfl⟩ := Nat.exists_eq_add_of_le' hf
  have hsplit : (g + 1) * val (List.replicate n 9) = 10 ^ n - (g + 1) + 10 ^ n * g := by
    have hnines := val_replicate_nine n
    have hproduct : (g + 1) * (val (List.replicate n 9) + 1) = 10 ^ n * g + 10 ^ n := by
      rw [hnines]
      ring
    rw [Nat.mul_succ] at hproduct
    omega
  rw [mulPass_eq, val_enc, List.length_replicate, hsplit, Nat.add_mul_mod_self_left]
  exact Nat.mod_eq_of_lt (by omega)

/-- No power of two is a multiple of ten, for want of a factor five. -/
theorem not_ten_dvd_two_pow (n : Nat) : ¬ 10 ∣ 2 ^ n := by
  intro h
  have hfive : 5 ∣ 2 := Nat.prime_five.dvd_of_dvd_pow ((by decide : 5 ∣ 10).trans h)
  exact absurd hfive (by decide)

/-- A window of at least one digit never shows a power of two as zeros. -/
theorem enc_two_pow_ne_zeros {d : Nat} (n : Nat) (hd : 1 ≤ d) : enc d (2 ^ n) ≠ List.replicate d 0 := by
  intro h
  have hten : 10 ∣ 10 ^ d := dvd_pow_self 10 (Nat.one_le_iff_ne_zero.1 hd)
  exact not_ten_dvd_two_pow n (hten.trans (enc_eq_zeros_iff.1 h))

/-- Settles O14: each case is the product's encoding in that case; no power of two ends in a zero digit. -/
theorem passCornerCases : Obligations.PassCornerCases := by
  refine ⟨fun f d => ?_, mulPass_zeros, fun f b => mulPass_eq_zeros_of_dvd, fun f n => val_mulPass_nines,
    fun d n => enc_two_pow_ne_zeros n⟩
  rw [mulPass_singleton]
  exact ⟨rfl, rfl⟩

end Sys2Proof.Machine
end

section
/-! PROOFS. What the lanes compute and emit (41_worker_ops.md R91 to R94): every step keeps each lane at its exponent, and
OUT an interleaving of the record sequences that the exponents give. -/

namespace Sys2Proof.Machine

open Sys2Proof

/-! ### What a lane has done (R91) -/

/-- The registers of lane `k` are those of `n` STEPs and `r` REPORTs: none while INIT, and what R91 says while RUNNING. -/
structure Lane.HasDone (c : Config) (k : Nat) (l : Lane) (n r : Nat) : Prop where
  init : l.phase = .init → n = 0 ∧ r = 0
  running : l.phase = .running → laneTracks c k l n r

/-- How many STEPs performing an operation adds to its lane's. -/
def stepsIn : Instr → Nat
  | .check => 0
  | .seed _ => 0
  | .step _ => 1
  | .report _ => 0

/-- How many REPORTs performing an operation adds to its lane's. -/
def reportsIn : Instr → Nat
  | .check => 0
  | .seed _ => 0
  | .step _ => 0
  | .report _ => 1

/-- The pass on an encoding multiplies the number encoded (R74). -/
theorem mulPass_enc (f d v : Nat) : mulPass f (enc d v) = (enc d (f * v), allEven (enc d (f * v))) := by
  have henc : enc d (f * (v % 10 ^ d)) = enc d (f * v) := enc_eq_enc_iff.2 (Nat.mul_mod_mod _ _ _)
  rw [mulPass_eq, enc_length, val_enc, henc]

/-- The factor is `2^W`: one pass takes the exponent `W` further (R91). -/
theorem mulPass_exponent (c : Config) (k n : Nat) :
    mulPass c.f (enc c.d (2 ^ (k + c.w * n)))
      = (enc c.d (2 ^ (k + c.w * (n + 1))), allEven (enc c.d (2 ^ (k + c.w * (n + 1))))) := by
  have hpow : c.f * 2 ^ (k + c.w * n) = 2 ^ (k + c.w * (n + 1)) := by
    rw [Config.f, ← pow_add]
    ring
  rw [mulPass_enc, hpow]

theorem seededLane_tracks (c : Config) (k : LaneIdx) : laneTracks c k.toNat (seededLane c k) 0 0 :=
  ⟨rfl, rfl, rfl, Nat.zero_le _⟩

theorem steppedLane_tracks {c : Config} {k n r : Nat} {l : Lane} (h : laneTracks c k l n r) (hb : l.bpos < c.batch) :
    laneTracks c k (steppedLane c l) (n + 1) r := by
  obtain ⟨hbuf, hcnt, hn, -⟩ := h
  refine ⟨?_, ?_, ?_, hb⟩
  · rw [steppedLane_buf, hbuf, mulPass_exponent]
  · rw [steppedLane_cnt, hcnt, BitVec.ofNat_add]
    rfl
  · rw [steppedLane_bpos, hn, Nat.add_assoc]

theorem reportedLane_tracks {c : Config} {k n r : Nat} {l : Lane} (h : laneTracks c k l n r) (hb : l.bpos = c.batch) :
    laneTracks c k { l with bpos := 0 } n (r + 1) := by
  obtain ⟨hbuf, hcnt, hn, -⟩ := h
  exact ⟨hbuf, hcnt, by rw [hn, hb, Nat.mul_succ, Nat.add_zero], Nat.zero_le _⟩

/-- The guards of the operations of a lane, case by case (R87 to R89). -/
theorem guard_lane_iff {s : State} {i : Instr} {k : LaneIdx} (ha : i.agent = .lane k) :
    s.guard i = true ↔ s.corePh = .run ∧
      ((i = .seed k ∧ (s.lane k).phase = .init) ∨
       (i = .step k ∧ (s.lane k).phase = .running ∧ (s.lane k).bpos < s.cfg.batch) ∨
       (i = .report k ∧ (s.lane k).phase = .running ∧ (s.lane k).bpos = s.cfg.batch)) := by
  cases i with
  | check => cases ha
  | seed j => cases ha; simp [State.guard]
  | step j => cases ha; simp [State.guard, and_assoc]
  | report j => cases ha; simp [State.guard, and_assoc]

/-- An operation performed takes its lane one STEP or one REPORT further, or starts it (R91). -/
theorem laneAfter_hasDone {s : State} {i : Instr} {k : LaneIdx} {n r : Nat} (h : s.CanPerform i k)
    (hd : (s.lane k).HasDone s.cfg k.toNat n r) :
    (laneAfter s.cfg (s.lane k) i).HasDone s.cfg k.toNat (n + stepsIn i) (r + reportsIn i) := by
  obtain ⟨-, ⟨rfl, hp⟩ | ⟨rfl, hp, hb⟩ | ⟨rfl, hp, hb⟩⟩ := (guard_lane_iff h.agent).1 h.guard
  · obtain ⟨rfl, rfl⟩ := hd.init hp
    exact ⟨fun hi => (nomatch hi), fun _ => seededLane_tracks s.cfg k⟩
  · exact ⟨fun hi => (nomatch hp.symm.trans hi), fun _ => steppedLane_tracks (hd.running hp) hb⟩
  · exact ⟨fun hi => (nomatch hp.symm.trans hi), fun _ => reportedLane_tracks (hd.running hp) hb⟩


/-- What an operation performed leaves each lane to have done, when its own lane is counted further. -/
theorem perform_hasDone {s : State} {i : Instr} {k : LaneIdx} (h : s.CanPerform i k) {n r : Nat → Nat}
    (hd : ∀ j : LaneIdx, j.toNat < s.cfg.w → (s.lane j).HasDone s.cfg j.toNat (n j.toNat) (r j.toNat))
    (j : LaneIdx) (hj : j.toNat < s.cfg.w) :
    ((s.perform i k).lane j).HasDone s.cfg j.toNat
      (Function.update n k.toNat (n k.toNat + stepsIn i) j.toNat)
      (Function.update r k.toNat (r k.toNat + reportsIn i) j.toNat) := by
  by_cases hjk : j = k
  · subst hjk
    rw [perform_lane_self h, Function.update_self, Function.update_self]
    exact laneAfter_hasDone h (hd j hj)
  · have hne : j.toNat ≠ k.toNat := fun e => hjk (BitVec.eq_of_toNat_eq e)
    rw [perform_lane_other s i hjk, Function.update_of_ne hne, Function.update_of_ne hne]
    exact hd j hj

/-! ### Invariants of the lanes and OUT -/

/-- A property that RESET brings, that every operation and the fault action keep, and that does not speak of the events
from outside, is kept by every step. -/
theorem step_keeps {P : State → Prop} (hreset : ∀ (s : State) v rest, P (s.resetRun v rest))
    (hmoved : ∀ (s : State) inp n b, P s → P { s with inputs := inp, turns := n, stopped := b })
    (hexec : ∀ i s t, P s → exec i s = .next t → P t)
    (hword : ∀ (s : State) c w, c ≠ .cfgMismatch → P s → P (s.raise c w none)) {s t : State} (hs : P s)
    (h : step s = .next t) : P t := by
  obtain ⟨-, hr | hstop | hop | hfault⟩ := step_operation h
  · obtain ⟨v, rest, rfl⟩ := hr
    exact hreset s v rest
  · obtain ⟨rest, -, rfl⟩ := hstop
    exact hmoved s rest s.turns true hs
  · obtain ⟨inp, n, i, -, -, he⟩ := hop
    exact hexec i _ t (hmoved s inp n s.stopped hs) he
  · obtain ⟨inp, n, c, w, -, rfl, hc⟩ := hfault
    have hne : c ≠ .cfgMismatch := by
      obtain ⟨rfl, -⟩ | ⟨rfl, -⟩ := hc <;> decide
    exact hword _ c w hne (hmoved s inp n s.stopped hs)

/-- R91 for the lanes that run is R91 for all, a lane still INIT having done nothing. -/
theorem tracksExponents_iff (s : State) :
    s.tracksExponents ↔ ∃ n r : Nat → Nat,
      ∀ k : LaneIdx, k.toNat < s.cfg.w → (s.lane k).HasDone s.cfg k.toNat (n k.toNat) (r k.toNat) := by
  constructor
  · intro h
    have hlane (k : LaneIdx) : ∃ n r, k.toNat < s.cfg.w → (s.lane k).HasDone s.cfg k.toNat n r := by
      by_cases hrun : k.toNat < s.cfg.w ∧ (s.lane k).phase = .running
      · obtain ⟨n, r, ht⟩ := h k hrun.1 hrun.2
        exact ⟨n, r, fun _ => ⟨fun hi => (nomatch hrun.2.symm.trans hi), fun _ => ht⟩⟩
      · exact ⟨0, 0, fun hk => ⟨fun _ => ⟨rfl, rfl⟩, fun hp => absurd ⟨hk, hp⟩ hrun⟩⟩
    choose n r hd using hlane
    refine ⟨fun j => n (BitVec.ofNat 4 j), fun j => r (BitVec.ofNat 4 j), fun k hk => ?_⟩
    simpa using hd k hk
  · rintro ⟨n, r, hd⟩ k hk hp
    exact ⟨_, _, (hd k hk).running hp⟩

theorem exec_keeps_tracksExponents (i : Instr) (s t : State) (hs : s.tracksExponents) (h : exec i s = .next t) :
    t.tracksExponents := by
  obtain ⟨k, hk, rfl⟩ | ⟨-, -, rfl⟩ | ⟨c, wenv, rfl⟩ := exec_effect h
  · obtain ⟨n, r, hd⟩ := (tracksExponents_iff s).1 hs
    exact (tracksExponents_iff _).2 ⟨_, _, perform_hasDone hk hd⟩
  · exact hs
  · exact hs

/-- Settles O42: SEED starts at exponent `k`, STEP takes the exponent `W` further, REPORT ends a batch, and nothing else
writes a lane. -/
theorem stepKeepsExponents : Obligations.StepKeepsExponents := fun _ _ hs h =>
  step_keeps resetRun_tracksExponents (fun _ _ _ _ hs => hs) exec_keeps_tracksExponents (fun _ _ _ _ hs => hs) hs h

/-! ### The records of a lane (R92, R94) -/

theorem laneRecords_zero (c : Config) (k r : Nat) : laneRecords c k 0 r = [] := rfl

theorem laneRecords_succ (c : Config) (k n r : Nat) :
    laneRecords c k (n + 1) r = laneRecords c k n r ++ laneStepRecords c k r (n + 1) := by
  simp [laneRecords, List.range_succ]

/-- A Match of the multiplied buffer and no Progress: the batch of the STEP has no REPORT yet. -/
theorem laneStepRecords_of_step {c : Config} {k n r : Nat} {l : Lane} (h : laneTracks c k l n r) :
    laneStepRecords c k r (n + 1) = stepRecords c l := by
  obtain ⟨hbuf, -, hn, -⟩ := h
  have hnone : ¬(c.batch ∣ n + 1 ∧ (n + 1) / c.batch ≤ r) := by
    rintro ⟨hdvd, hle⟩
    have hmul : (n + 1) / c.batch * c.batch ≤ r * c.batch := Nat.mul_le_mul_right _ hle
    rw [Nat.div_mul_cancel hdvd, Nat.mul_comm r] at hmul
    omega
  rw [laneStepRecords, if_neg hnone, List.append_nil, stepRecords, hbuf, mulPass_exponent]

/-- One more REPORT changes nothing about the STEPs of earlier batches. -/
theorem laneStepRecords_report_of_lt {c : Config} {k r m : Nat} (h : m < c.batch * (r + 1)) :
    laneStepRecords c k (r + 1) m = laneStepRecords c k r m := by
  have hdiv : m / c.batch ≤ r := Nat.le_of_lt_succ (Nat.div_lt_of_lt_mul h)
  simp [laneStepRecords, hdiv, Nat.le_succ_of_le hdiv]

/-- The REPORT's own Progress comes after what the last STEP of its batch has appended. -/
theorem laneStepRecords_report_self {c : Config} (hb : 1 ≤ c.batch) (k r : Nat) :
    laneStepRecords c k (r + 1) (c.batch * (r + 1))
      = laneStepRecords c k r (c.batch * (r + 1))
        ++ [.progress (BitVec.ofNat 64 (c.batch * (r + 1))) (BitVec.ofNat 4 k)] := by
  have hdiv : c.batch * (r + 1) / c.batch = r + 1 := Nat.mul_div_cancel_left _ hb
  simp [laneStepRecords, hdiv]

/-- A REPORT at the end of batch `r + 1` appends its Progress to the lane's records (R94). -/
theorem laneRecords_report {c : Config} (hb : 1 ≤ c.batch) (k r : Nat) :
    laneRecords c k (c.batch * (r + 1)) (r + 1)
      = laneRecords c k (c.batch * (r + 1)) r
        ++ [.progress (BitVec.ofNat 64 (c.batch * (r + 1))) (BitVec.ofNat 4 k)] := by
  have hpos : 0 < c.batch * (r + 1) := Nat.mul_pos hb r.succ_pos
  obtain ⟨m, hm⟩ : ∃ m, c.batch * (r + 1) = m + 1 := ⟨_, (Nat.succ_pred_eq_of_pos hpos).symm⟩
  have hearlier : laneRecords c k m (r + 1) = laneRecords c k m r := by
    refine List.flatMap_congr fun j hj => laneStepRecords_report_of_lt ?_
    have hj := List.mem_range.1 hj
    omega
  have hlast := laneStepRecords_report_self hb k r
  rw [hm] at hlast ⊢
  rw [laneRecords_succ, laneRecords_succ, hearlier, hlast, List.append_assoc]

/-- What an operation performed appends to OUT is what it adds to the records of its lane. -/
theorem laneRecords_perform {s : State} {i : Instr} {k : LaneIdx} {n r : Nat} (h : s.CanPerform i k)
    (hd : (s.lane k).HasDone s.cfg k.toNat n r) :
    laneRecords s.cfg k.toNat (n + stepsIn i) (r + reportsIn i)
      = laneRecords s.cfg k.toNat n r ++ laneEmits s.cfg (s.lane k) i := by
  obtain ⟨⟨-, hbatch, -⟩, -⟩ := (isBuild_iff s).1 ((live_iff s).1 h.live).1
  obtain ⟨-, ⟨rfl, -⟩ | ⟨rfl, hp, -⟩ | ⟨rfl, hp, hb⟩⟩ := (guard_lane_iff h.agent).1 h.guard
  · exact (List.append_nil _).symm
  · have ht := hd.running hp
    exact (laneRecords_succ _ _ _ _).trans (congrArg _ (laneStepRecords_of_step ht))
  · obtain ⟨-, hcnt, hn, -⟩ := hd.running hp
    have hn : n = s.cfg.batch * (r + 1) := by rw [hn, hb, Nat.mul_succ]
    subst hn
    simpa [stepsIn, reportsIn, laneEmits, hcnt] using laneRecords_report hbatch k.toNat r

/-! ### OUT as an interleaving of the lanes' records (R45) -/

/-- The records of lane `k`, out of records tagged with the lanes that appended them. -/
def recordsOf (tagged : List (Nat × OutRecord)) (k : Nat) : List OutRecord :=
  (tagged.filter fun p => p.1 == k).map Prod.snd

theorem recordsOf_append (tagged more : List (Nat × OutRecord)) (k : Nat) :
    recordsOf (tagged ++ more) k = recordsOf tagged k ++ recordsOf more k := by
  simp [recordsOf]

theorem recordsOf_tag_self (k : Nat) (rs : List OutRecord) : recordsOf (rs.map (Prod.mk k)) k = rs := by
  simp [recordsOf, List.filter_map, Function.comp_def]

theorem recordsOf_tag_other {j k : Nat} (h : j ≠ k) (rs : List OutRecord) : recordsOf (rs.map (Prod.mk k)) j = [] := by
  simp [recordsOf, List.filter_map, Function.comp_def, h.symm]

/-- The history with its numbers: what each lane has done, and OUT with the lane that appended each record. -/
structure State.HistoryOf (s : State) (n r : Nat → Nat) (tagged : List (Nat × OutRecord)) : Prop where
  out : tagged.map Prod.snd = s.out
  lanes : ∀ p ∈ tagged, p.1 < s.cfg.w
  done : ∀ k : LaneIdx, k.toNat < s.cfg.w → (s.lane k).HasDone s.cfg k.toNat (n k.toNat) (r k.toNat)
  records : ∀ k : LaneIdx, k.toNat < s.cfg.w →
    recordsOf tagged k.toNat = laneRecords s.cfg k.toNat (n k.toNat) (r k.toNat)

theorem hasHistory_iff (s : State) : s.hasHistory ↔ ∃ n r tagged, s.HistoryOf n r tagged := by
  constructor
  · rintro ⟨n, r, tagged, hout, hlanes, hk⟩
    refine ⟨n, r, tagged, hout, hlanes, fun k h => ?_, fun k h => ?_⟩
    · obtain ⟨hinit, hrunning, -⟩ := hk k h
      exact ⟨hinit, hrunning⟩
    · obtain ⟨-, -, hrecords⟩ := hk k h
      exact hrecords
  · rintro ⟨n, r, tagged, hout, hlanes, hdone, hrecords⟩
    exact ⟨n, r, tagged, hout, hlanes, fun k h => ⟨(hdone k h).init, (hdone k h).running, hrecords k h⟩⟩

/-- An operation performed appends its records, tagged with its lane, and counts its lane further. -/
theorem perform_history {s : State} {i : Instr} {k : LaneIdx} (h : s.CanPerform i k) {n r : Nat → Nat}
    {tagged : List (Nat × OutRecord)} (hs : s.HistoryOf n r tagged) :
    (s.perform i k).HistoryOf (Function.update n k.toNat (n k.toNat + stepsIn i))
      (Function.update r k.toNat (r k.toNat + reportsIn i))
      (tagged ++ (laneEmits s.cfg (s.lane k) i).map (Prod.mk k.toNat)) := by
  refine ⟨?_, ?_, perform_hasDone h hs.done, fun j hj => ?_⟩
  · simp [hs.out]
  · refine List.forall_mem_append.2 ⟨hs.lanes, fun p hp => ?_⟩
    obtain ⟨x, -, rfl⟩ := List.mem_map.1 hp
    exact h.lane_lt
  · rw [recordsOf_append, hs.records j hj, perform_cfg]
    by_cases hjk : j = k
    · subst hjk
      rw [recordsOf_tag_self, Function.update_self, Function.update_self, laneRecords_perform h (hs.done j hj)]
    · have hne : j.toNat ≠ k.toNat := fun e => hjk (BitVec.eq_of_toNat_eq e)
      rw [recordsOf_tag_other hne, List.append_nil, Function.update_of_ne hne, Function.update_of_ne hne]

theorem exec_keeps_hasHistory (i : Instr) (s t : State) (hs : s.hasHistory) (h : exec i s = .next t) :
    t.hasHistory := by
  obtain ⟨k, hk, rfl⟩ | ⟨-, -, rfl⟩ | ⟨c, wenv, rfl⟩ := exec_effect h
  · obtain ⟨n, r, tagged, hs⟩ := (hasHistory_iff s).1 hs
    exact (hasHistory_iff _).2 ⟨_, _, _, perform_history hk hs⟩
  · exact hs
  · exact hs

/-- Settles O43: an operation performed appends to OUT what it adds to the record sequence of its own lane, and nothing
else writes a lane or OUT. -/
theorem stepKeepsHistory : Obligations.StepKeepsHistory := fun _ _ hs h =>
  step_keeps resetRun_hasHistory (fun _ _ _ _ hs => hs) exec_keeps_hasHistory (fun _ _ _ _ hs => hs) hs h

end Sys2Proof.Machine
end

section
/-! PROOFS. What a run shows (41_worker_ops.md): which exponents the Matches in OUT stand for and what they say about the
powers of two (R92, R93), which counts the Progress records give (R94), and which exponents the lanes reach (R95). -/

namespace Sys2Proof.Machine

open Sys2Proof

/-! ### What a Match says about a power of two (R93) -/

theorem allEven_enc_iff (d v : Nat) : allEven (enc d v) = true ↔ ∀ i < d, v / 10 ^ i % 10 % 2 = 0 := by
  simp [allEven_iff, enc]

/-- Every digit of the numeral is even exactly when the digit at every place is, leading zeros among them. -/
theorem digits_even_iff (v : Nat) :
    (∀ x ∈ Nat.digits 10 v, x % 2 = 0) ↔ ∀ i, v / 10 ^ i % 10 % 2 = 0 := by
  have hdigit (i : Nat) : (Nat.digits 10 v)[i]?.getD 0 = v / 10 ^ i % 10 := by
    rw [← Nat.getD_digits v i (by decide : 2 ≤ 10), List.getD_eq_getElem?_getD]
  constructor
  · intro h i
    rw [← hdigit]
    cases hi : (Nat.digits 10 v)[i]? with
    | none => rfl
    | some x => exact h x (List.mem_of_getElem? hi)
  · intro h x hx
    obtain ⟨i, hi⟩ := List.mem_iff_getElem?.1 hx
    have hx := hdigit i
    rw [hi, Option.getD_some] at hx
    exact hx ▸ h i

/-- Above the window of a number there are only zeros. -/
theorem allEven_enc_iff_digits_of_lt {d v : Nat} (hv : v < 10 ^ d) :
    allEven (enc d v) = true ↔ ∀ x ∈ Nat.digits 10 v, x % 2 = 0 := by
  rw [allEven_enc_iff, digits_even_iff]
  refine ⟨fun h i => ?_, fun h i _ => h i⟩
  obtain hi | hi := Nat.lt_or_ge i d
  · exact h i hi
  · have hle : 10 ^ d ≤ 10 ^ i := Nat.pow_le_pow_right (by decide) hi
    rw [Nat.div_eq_of_lt (hv.trans_le hle)]

/-- The digits in the window are digits of the number, so an odd one among them is one of the number's. -/
theorem exists_odd_digit_of_not_allEven {d v : Nat} (h : allEven (enc d v) = false) :
    ∃ x ∈ Nat.digits 10 v, x % 2 = 1 := by
  by_contra hnone
  have heven : ∀ x ∈ Nat.digits 10 v, x % 2 = 0 := fun x hx =>
    (Nat.mod_two_eq_zero_or_one x).resolve_right fun hodd => hnone ⟨x, hx, hodd⟩
  have hall : allEven (enc d v) = true := (allEven_enc_iff d v).2 fun i _ => (digits_even_iff v).1 heven i
  rw [h] at hall
  cases hall

/-- Settles O16: the window shows the low digits of the number, and all of them when the number is below `10^D`. -/
theorem matchMeansLowDigitsEven : Obligations.MatchMeansLowDigitsEven := fun _ _ =>
  ⟨allEven_enc_iff _ _, allEven_enc_iff_digits_of_lt, exists_odd_digit_of_not_allEven⟩

/-! ### The exponents the lanes reach (R91, R95) -/

/-- A lane's buffer after its SEED and `m` STEPs, by induction on the STEPs. -/
theorem laneBuffer_eq (c : Config) (k m : Nat) : laneBuffer c k m = enc c.d (2 ^ (k + c.w * m)) := by
  induction m with
  | zero => rfl
  | succ m ih => rw [laneBuffer, ih, mulPass_exponent]

theorem exponent_lt {w K k m : Nat} (hk : k < w) (hm : m < K) : k + w * m < w * K :=
  calc k + w * m
      < w + w * m := Nat.add_lt_add_right hk _
    _ = w * (m + 1) := by rw [Nat.mul_succ, Nat.add_comm]
    _ ≤ w * K := Nat.mul_le_mul_left w hm

/-- The lane and the step number of an exponent are its remainder and its quotient by `W`. -/
theorem existsUnique_lane_and_step {w K n : Nat} (hw : 1 ≤ w) (hn : n < w * K) :
    ∃! p : Nat × Nat, p.1 < w ∧ p.2 < K ∧ n = p.1 + w * p.2 := by
  refine ⟨(n % w, n / w), ⟨Nat.mod_lt n hw, Nat.div_lt_of_lt_mul hn, (Nat.mod_add_div n w).symm⟩, ?_⟩
  rintro ⟨k, m⟩ ⟨hk, -, rfl⟩
  have hmod : (k + w * m) % w = k := by rw [Nat.add_mul_mod_self_left, Nat.mod_eq_of_lt hk]
  have hdiv : (k + w * m) / w = m := by rw [Nat.add_mul_div_left _ _ hw, Nat.div_eq_of_lt hk, Nat.zero_add]
  rw [hmod, hdiv]

/-- Settles O48: each STEP takes the exponent `W` further, and division by `W` is unique. -/
theorem lanesCoverAllExponents : Obligations.LanesCoverAllExponents := fun c hw =>
  ⟨laneBuffer_eq c, fun _ _ _ => exponent_lt, fun _ _ => existsUnique_lane_and_step hw⟩

/-! ### Which records stand in OUT (R92) -/

theorem mem_recordsOf_iff {tagged : List (Nat × OutRecord)} {k : Nat} {x : OutRecord} :
    x ∈ recordsOf tagged k ↔ (k, x) ∈ tagged := by
  simp [recordsOf]

/-- The tagged records of a history are the records of the lanes of the build. -/
theorem mem_tagged_iff {s : State} {n r : Nat → Nat} {tagged : List (Nat × OutRecord)} (hb : s.isBuild = true)
    (hs : s.HistoryOf n r tagged) (k : Nat) (x : OutRecord) :
    (k, x) ∈ tagged ↔ k < s.cfg.w ∧ x ∈ laneRecords s.cfg k (n k) (r k) := by
  obtain ⟨⟨-, -, -, hw⟩, -⟩ := (isBuild_iff s).1 hb
  have hrecords (hk : k < s.cfg.w) : recordsOf tagged k = laneRecords s.cfg k (n k) (r k) := by
    have hlane : (BitVec.ofNat 4 k).toNat = k := Nat.mod_eq_of_lt (by omega)
    have h := hs.records (BitVec.ofNat 4 k) (hlane.symm ▸ hk)
    rwa [hlane] at h
  constructor
  · intro hx
    have hk : k < s.cfg.w := hs.lanes _ hx
    exact ⟨hk, hrecords hk ▸ mem_recordsOf_iff.2 hx⟩
  · rintro ⟨hk, hx⟩
    exact mem_recordsOf_iff.1 ((hrecords hk).symm ▸ hx)

theorem mem_out_iff {s : State} {n r : Nat → Nat} {tagged : List (Nat × OutRecord)} (hb : s.isBuild = true)
    (hs : s.HistoryOf n r tagged) (x : OutRecord) :
    x ∈ s.out ↔ ∃ k < s.cfg.w, x ∈ laneRecords s.cfg k (n k) (r k) := by
  simp [← hs.out, mem_tagged_iff hb hs]

theorem matched_mem_laneStepRecords_iff (c : Config) (k r m : Nat) (b : Buffer) :
    .matched b ∈ laneStepRecords c k r m ↔ b = enc c.d (2 ^ (k + c.w * m)) ∧ allEven b = true := by
  simp only [laneStepRecords, List.mem_append, List.mem_ite_nil_right, List.mem_singleton, OutRecord.matched.injEq,
    reduceCtorEq, and_false, or_false]
  exact ⟨fun ⟨he, hb⟩ => ⟨hb, hb ▸ he⟩, fun ⟨hb, he⟩ => ⟨hb ▸ he, hb⟩⟩

/-- The Matches of a lane are those of its STEPs `1` to `n`. -/
theorem matched_mem_laneRecords_iff (c : Config) (k n r : Nat) (b : Buffer) :
    .matched b ∈ laneRecords c k n r ↔
      ∃ m, 1 ≤ m ∧ m ≤ n ∧ b = enc c.d (2 ^ (k + c.w * m)) ∧ allEven b = true := by
  simp only [laneRecords, List.mem_flatMap, List.mem_range, matched_mem_laneStepRecords_iff]
  constructor
  · rintro ⟨j, hj, hb⟩
    exact ⟨j + 1, Nat.succ_pos j, hj, hb⟩
  · rintro ⟨m, hm, hn, hb⟩
    obtain ⟨j, rfl⟩ := Nat.exists_eq_add_of_le' hm
    exact ⟨j, hn, hb⟩

/-- Settles O45: the step numbers of the history are the ones asked for, since OUT holds the lanes' records alone. -/
theorem matchesAreTheEvenTestedExponents : Obligations.MatchesAreTheEvenTestedExponents := by
  intro s hb hs
  obtain ⟨n, r, tagged, hs⟩ := (hasHistory_iff s).1 hs
  refine ⟨n, fun k hk => ⟨fun hinit => ?_, fun hrunning => ?_⟩, fun b => ?_⟩
  · obtain ⟨hn, -⟩ := (hs.done k hk).init hinit
    exact hn
  · obtain ⟨-, hcnt, -⟩ := (hs.done k hk).running hrunning
    exact hcnt
  · simp only [mem_out_iff hb hs, matched_mem_laneRecords_iff]
    exact ⟨fun ⟨k, hk, m, h⟩ => ⟨k, m, hk, h⟩, fun ⟨k, m, hk, h⟩ => ⟨k, hk, m, h⟩⟩

/-! ### The Progress records of a lane (R94) -/

theorem filter_progress_laneStepRecords (c : Config) (k : LaneIdx) (r m : Nat) :
    (laneStepRecords c k.toNat r m).filter (OutRecord.isProgressOf k)
      = if c.batch ∣ m ∧ m / c.batch ≤ r then [.progress (BitVec.ofNat 64 m) k] else [] := by
  rw [laneStepRecords, List.filter_append, BitVec.ofNat_toNat, BitVec.setWidth_eq]
  split <;> split <;> simp [OutRecord.isProgressOf]

/-- The Progress records of a lane are one for each batch that is both full and reported, in order. -/
theorem filter_progress_laneRecords (c : Config) (k : LaneIdx) (n r : Nat) :
    (laneRecords c k.toNat n r).filter (OutRecord.isProgressOf k)
      = (List.range (min (n / c.batch) r)).map fun j => .progress (BitVec.ofNat 64 ((j + 1) * c.batch)) k := by
  induction n with
  | zero => simp [laneRecords_zero]
  | succ n ih =>
    rw [laneRecords_succ, List.filter_append, ih, filter_progress_laneStepRecords]
    by_cases hdvd : c.batch ∣ n + 1
    · have hdiv : (n + 1) / c.batch = n / c.batch + 1 := Nat.succ_div_of_dvd hdvd
      obtain hle | hlt := Nat.lt_or_ge (n / c.batch) r
      · have hn : (n / c.batch + 1) * c.batch = n + 1 := by rw [← hdiv, Nat.div_mul_cancel hdvd]
        rw [if_pos ⟨hdvd, hdiv ▸ hle⟩, hdiv, min_eq_left hle.le, min_eq_left hle, List.range_succ, List.map_append,
          List.map_singleton, hn]
      · rw [if_neg (by omega), hdiv, min_eq_right hlt, min_eq_right (Nat.le_succ_of_le hlt), List.append_nil]
    · rw [if_neg fun h => hdvd h.1, Nat.succ_div_of_not_dvd hdvd, List.append_nil]

/-- A Progress record names the lane that appended it. -/
theorem lane_of_isProgressOf {c : Config} {j n r : Nat} {k : LaneIdx} {x : OutRecord}
    (hx : x ∈ laneRecords c j n r) (hk : x.isProgressOf k = true) : BitVec.ofNat 4 j = k := by
  cases x with
  | matched b => cases hk
  | progress m l =>
    obtain rfl : l = k := eq_of_beq hk
    obtain ⟨i, -, hx⟩ := List.mem_flatMap.1 hx
    simp only [laneStepRecords, List.mem_append, List.mem_ite_nil_right, List.mem_singleton, OutRecord.progress.injEq,
      reduceCtorEq, and_false, false_or] at hx
    obtain ⟨-, -, hl⟩ := hx
    exact hl.symm

/-- The Progress records of a lane in OUT are those among its own records. -/
theorem filter_progress_out {s : State} {n r : Nat → Nat} {tagged : List (Nat × OutRecord)} (hb : s.isBuild = true)
    (hs : s.HistoryOf n r tagged) (k : LaneIdx) :
    s.out.filter (OutRecord.isProgressOf k) = (recordsOf tagged k.toNat).filter (OutRecord.isProgressOf k) := by
  obtain ⟨⟨-, -, -, hw⟩, -⟩ := (isBuild_iff s).1 hb
  have htag : ∀ p ∈ tagged, p.2.isProgressOf k = (p.2.isProgressOf k && p.1 == k.toNat) := by
    rintro ⟨j, x⟩ hp
    obtain ⟨hj, hx⟩ := (mem_tagged_iff hb hs j x).1 hp
    cases hk : x.isProgressOf k with
    | false => rfl
    | true =>
      obtain rfl := lane_of_isProgressOf hx hk
      have hlane : (BitVec.ofNat 4 j).toNat = j := Nat.mod_eq_of_lt (by omega)
      simp [hlane]
  rw [← hs.out, recordsOf, List.filter_map, List.filter_map, List.filter_filter]
  exact congrArg _ (List.filter_congr htag)

/-- Settles O46: of the lane's own records, the Progress ones count the reported batches in order. -/
theorem progressRecordsCountBatches : Obligations.ProgressRecordsCountBatches := by
  intro s hb hs k hk
  obtain ⟨n, r, tagged, hs⟩ := (hasHistory_iff s).1 hs
  exact ⟨_, by rw [filter_progress_out hb hs, hs.records k hk, filter_progress_laneRecords]⟩

end Sys2Proof.Machine
end

section
/-! PROOFS. The operations and their sequencers (41_worker_ops.md): what CHECK, SEED, STEP and REPORT do where they
complete and where their guard fails (R81, R86 to R89), which operation an agent has next (R82 to R85), and what a block
does that has been halted (R100) or has not been checked (R99). -/

namespace Sys2Proof.Machine

open Sys2Proof

/-! ### CHECK (R86) -/

theorem execCheck_of_match {s : State} (hl : s.live = true) (hp : s.corePh = .unchecked) (hw : s.wEnv = s.cfg.w) :
    exec .check s = .next { s with corePh := .run } := by
  rw [exec, execCheck, operate_live hl, if_pos (by rw [hp]; rfl), if_pos hw]

theorem execCheck_of_mismatch {s : State} (hl : s.live = true) (hp : s.corePh = .unchecked) (hw : s.wEnv ≠ s.cfg.w) :
    exec .check s = .next (s.raise .cfgMismatch (encode .check) (some s.wEnv)) := by
  rw [exec, execCheck, operate_live hl, if_pos (by rw [hp]; rfl), if_neg hw]

theorem execCheck_of_guard_fails {s : State} (hl : s.live = true) (hg : s.guard .check = false) :
    exec .check s = .next (s.raise .outOfSequence (encode .check) none) := by
  have hp : (s.corePh == .unchecked) = false := hg
  rw [exec, execCheck, operate_live hl, if_neg (by simp [hp])]

/-- Settles O17: a live block is a build and not halted, and the guard and the comparison of CHECK hold. -/
theorem checkPassesIntoRun : Obligations.CheckPassesIntoRun := fun _ => execCheck_of_match

/-- Settles O18: the word of CHECK is 0x00, and the code of CFG_MISMATCH is 1. -/
theorem checkMismatchHalts : Obligations.CheckMismatchHalts := fun _ => execCheck_of_mismatch

/-! ### A failed guard (R81) -/

/-- A lane operation of the build raises OUT_OF_SEQUENCE unless the block runs and its own condition holds. -/
theorem laneOperation_of_guard_fails {i : Instr} {k : LaneIdx} {g : Bool} {b s : State} (hl : s.live = true)
    (hk : k.toNat < s.cfg.w) (hg : (s.corePh == .run && g) = false) :
    laneOperation i k g b s = .next (s.raise .outOfSequence (encode i) none) := by
  rw [laneOperation, operate_live hl, if_neg (Nat.not_le.2 hk), hg]
  rfl

/-- Settles O23: the condition each operation asks for is its guard. -/
theorem guardFailureIsOutOfSequence : Obligations.GuardFailureIsOutOfSequence := by
  intro i s hl hi hg
  change exec i s = .next (s.raise .outOfSequence (encode i) none)
  cases i with
  | check => exact execCheck_of_guard_fails hl hg
  | seed k => exact laneOperation_of_guard_fails hl (of_decide_eq_true hi) hg
  | step k =>
    exact laneOperation_of_guard_fails hl (of_decide_eq_true hi) (by rw [← Bool.and_assoc]; exact hg)
  | report k =>
    exact laneOperation_of_guard_fails hl (of_decide_eq_true hi) (by rw [← Bool.and_assoc]; exact hg)

/-! ### SEED, STEP and REPORT where they complete (R87 to R89) -/

theorem perform_sameElsewhere (s : State) (i : Instr) (k : LaneIdx) : s.sameElsewhere (s.perform i k) := rfl

theorem canPerform_seed {s : State} {k : LaneIdx} (hl : s.live = true) (hr : s.corePh = .run)
    (hk : k.toNat < s.cfg.w) (hp : (s.lane k).phase = .init) : s.CanPerform (.seed k) k :=
  ⟨rfl, hl, hk, hr, (guard_lane_iff rfl).2 ⟨hr, .inl ⟨rfl, hp⟩⟩⟩

theorem canPerform_step {s : State} {k : LaneIdx} (hl : s.live = true) (hr : s.corePh = .run)
    (hk : k.toNat < s.cfg.w) (hp : (s.lane k).phase = .running) (hb : (s.lane k).bpos < s.cfg.batch) :
    s.CanPerform (.step k) k :=
  ⟨rfl, hl, hk, hr, (guard_lane_iff rfl).2 ⟨hr, .inr (.inl ⟨rfl, hp, hb⟩)⟩⟩

theorem canPerform_report {s : State} {k : LaneIdx} (hl : s.live = true) (hr : s.corePh = .run)
    (hk : k.toNat < s.cfg.w) (hp : (s.lane k).phase = .running) (hb : (s.lane k).bpos = s.cfg.batch) :
    s.CanPerform (.report k) k :=
  ⟨rfl, hl, hk, hr, (guard_lane_iff rfl).2 ⟨hr, .inr (.inr ⟨rfl, hp, hb⟩)⟩⟩

/-- Settles O19: the lane holds the encoding of the seed, and performing writes that lane and OUT alone. -/
theorem seedInitialisesItsLane : Obligations.SeedInitialisesItsLane := by
  intro k s hl hr hk hp
  have hcan := canPerform_seed hl hr hk hp
  have hlane : (s.perform (.seed k) k).lane k = seededLane s.cfg k := perform_lane_self hcan
  refine ⟨_, exec_of_canPerform hcan, hlane, ?_, List.append_nil _, otherLanesSame_perform s _ k,
    perform_sameElsewhere s _ k⟩
  rw [hlane, seededLane_buf, val_enc]

/-- STEP appends the multiplied buffer when it is all even (R77). -/
theorem stepRecords_of_allEven {c : Config} {l : Lane} (h : allEven (steppedLane c l).buf = true) :
    stepRecords c l = [.matched (steppedLane c l).buf] :=
  if_pos ((mulPass_flag c.f l.buf).trans h)

/-- STEP appends nothing when some digit is odd (R77). -/
theorem stepRecords_of_not_allEven {c : Config} {l : Lane} (h : allEven (steppedLane c l).buf = false) :
    stepRecords c l = [] :=
  if_neg (by rw [mulPass_flag]; exact Bool.eq_false_iff.1 h)

/-- Settles O20: the pass multiplies by `2^W` (R74), and its flag is the evenness of every digit it leaves (R75). -/
theorem stepMultipliesAndDetects : Obligations.StepMultipliesAndDetects := by
  intro k s hl hr hk hp hb
  have hcan := canPerform_step hl hr hk hp hb
  have hlane : (s.perform (.step k) k).lane k = steppedLane s.cfg (s.lane k) := perform_lane_self hcan
  refine ⟨_, exec_of_canPerform hcan, ?_⟩
  rw [hlane]
  refine ⟨mulPassCarry_buf _ _, BitVec.toNat_add _ _, rfl, hp, fun heven => ?_, fun hodd => ?_,
    otherLanesSame_perform s _ k, perform_sameElsewhere s _ k⟩
  · rw [perform_out, laneEmits, stepRecords_of_allEven ((allEven_iff _).2 heven)]
  · obtain ⟨d, hd, hodd⟩ := hodd
    have hnot : allEven (steppedLane s.cfg (s.lane k)).buf = false := by
      rw [Bool.eq_false_iff, Ne, allEven_iff]
      intro heven
      have hd := heven d hd
      omega
    rw [perform_out, laneEmits, stepRecords_of_not_allEven hnot, List.append_nil]

/-- Settles O21: REPORT writes the batch position alone, and its record holds the count and the lane's identity. -/
theorem reportEmitsAndRestartsBatch : Obligations.ReportEmitsAndRestartsBatch := by
  intro k s hl hr hk hp hb
  have hcan := canPerform_report hl hr hk hp hb
  exact ⟨_, exec_of_canPerform hcan, perform_lane_self hcan, rfl, otherLanesSame_perform s _ k,
    perform_sameElsewhere s _ k⟩

/-- The last digit of a multiple of two is even. -/
theorem allEven_enc_one_of_even {v : Nat} (h : 2 ∣ v) : allEven (enc 1 v) = true := by
  rw [allEven_enc_iff]
  intro i hi
  obtain rfl : i = 0 := by omega
  rw [pow_zero, Nat.div_one]
  omega

/-- Settles O47: the one digit of a product by `2^W` is even, `W` being at least 1. -/
theorem singleDigitStepsAlwaysMatch : Obligations.SingleDigitStepsAlwaysMatch := by
  intro s k hl hd hs hk hg
  obtain ⟨⟨-, -, hw, -⟩, -⟩ := (isBuild_iff s).1 ((live_iff s).1 hl).1
  simp only [State.guard, Bool.and_eq_true, beq_iff_eq, decide_eq_true_eq] at hg
  obtain ⟨⟨hr, hp⟩, hb⟩ := hg
  have hcan := canPerform_step hl hr hk hp hb
  obtain ⟨n, r, ht⟩ := hs k hk hp
  obtain ⟨hbuf, -⟩ := steppedLane_tracks ht hb
  have heven : allEven (steppedLane s.cfg (s.lane k)).buf = true := by
    rw [hbuf, hd]
    exact allEven_enc_one_of_even (dvd_pow_self 2 (by positivity))
  refine ⟨_, exec_of_canPerform hcan, ?_⟩
  rw [perform_out, perform_lane_self hcan]
  exact congrArg _ (stepRecords_of_allEven heven)

/-! ### The lane sequencer (R83) -/

theorem nextLaneOp_of_init {s : State} {k : LaneIdx} (hp : (s.lane k).phase = .init) : s.nextLaneOp k = .seed k := by
  simp [State.nextLaneOp, hp]

theorem nextLaneOp_of_lt {s : State} {k : LaneIdx} (hp : (s.lane k).phase = .running)
    (hb : (s.lane k).bpos < s.cfg.batch) : s.nextLaneOp k = .step k := by
  simp [State.nextLaneOp, hp, hb]

theorem nextLaneOp_of_eq {s : State} {k : LaneIdx} (hp : (s.lane k).phase = .running)
    (hb : (s.lane k).bpos = s.cfg.batch) : s.nextLaneOp k = .report k := by
  simp [State.nextLaneOp, hp, hb]

theorem nextOp_lane_of_run {s : State} {k : LaneIdx} (hr : s.corePh = .run) (hs : s.stopped = false)
    (hk : k.toNat < s.cfg.w) : s.nextOp (.lane k) = some (s.nextLaneOp k) := by
  simp [State.nextOp, hr, hs, hk]

theorem nextOp_lane_of_not_run {s : State} (hr : s.corePh ≠ .run) (k : LaneIdx) : s.nextOp (.lane k) = none := by
  simp [State.nextOp, hr]

/-- The guards ask for the sequencer's three cases, so while the block runs the operation of a lane whose guard holds is
the one its sequencer gives. -/
theorem agent_and_guard_iff {s : State} {k : LaneIdx} (hr : s.corePh = .run) (hb : (s.lane k).bpos ≤ s.cfg.batch)
    (i : Instr) : i.agent = .lane k ∧ s.guard i = true ↔ i = s.nextLaneOp k := by
  constructor
  · rintro ⟨ha, hg⟩
    obtain ⟨-, ⟨rfl, hp⟩ | ⟨rfl, hp, hlt⟩ | ⟨rfl, hp, heq⟩⟩ := (guard_lane_iff ha).1 hg
    · exact (nextLaneOp_of_init hp).symm
    · exact (nextLaneOp_of_lt hp hlt).symm
    · exact (nextLaneOp_of_eq hp heq).symm
  · rintro rfl
    cases hp : (s.lane k).phase with
    | init =>
      rw [nextLaneOp_of_init hp]
      exact ⟨rfl, (guard_lane_iff rfl).2 ⟨hr, .inl ⟨rfl, hp⟩⟩⟩
    | running =>
      obtain hlt | heq := hb.lt_or_eq
      · rw [nextLaneOp_of_lt hp hlt]
        exact ⟨rfl, (guard_lane_iff rfl).2 ⟨hr, .inr (.inl ⟨rfl, hp, hlt⟩)⟩⟩
      · rw [nextLaneOp_of_eq hp heq]
        exact ⟨rfl, (guard_lane_iff rfl).2 ⟨hr, .inr (.inr ⟨rfl, hp, heq⟩)⟩⟩

/-- Settles O32: the operations of a lane with a guard that holds are, while the block runs, the sequencer's one, and
otherwise none. -/
theorem laneHasExactlyOneEnabledOperation : Obligations.LaneHasExactlyOneEnabledOperation := by
  intro s k hk hb
  refine ⟨fun hr hs => ?_, fun hr => ?_, fun hr => ⟨nextOp_lane_of_not_run hr k, fun i ha => ?_⟩⟩
  · rw [nextOp_lane_of_run hr hs hk]
    refine ⟨fun hp => congrArg some (nextLaneOp_of_init hp), fun hp hlt => congrArg some (nextLaneOp_of_lt hp hlt),
      fun hp heq => congrArg some (nextLaneOp_of_eq hp heq), fun i hi => ?_⟩
    exact (agent_and_guard_iff hr hb i).2 (Option.some.inj hi).symm
  · exact ⟨s.nextLaneOp k, (agent_and_guard_iff hr hb _).2 rfl, fun i hi => (agent_and_guard_iff hr hb i).1 hi⟩
  · refine Bool.eq_false_iff.2 fun hg => ?_
    obtain ⟨hrun, -⟩ := (guard_lane_iff ha).1 hg
    exact hr hrun

/-! ### Autonomous steps (R81, R82, R85) -/

/-- A live block is before its check or runs. -/
theorem corePh_of_live {s : State} (h : s.live = true) : s.corePh = .unchecked ∨ s.corePh = .run := by
  cases hp : s.corePh with
  | unchecked => exact .inl rfl
  | run => exact .inr rfl
  | fatal => exact absurd hp (live_not_fatal h)

/-- The enabled agents: the controller while UNCHECKED, every lane of the build while RUN (R85). -/
theorem mem_enabledAgents_iff {s : State} (h : s.live = true) (a : Agent) :
    a ∈ s.enabledAgents ↔
      (s.corePh = .unchecked ∧ a = .controller) ∨
      (s.corePh = .run ∧ ∃ k < s.cfg.w, a = .lane (BitVec.ofNat 4 k)) := by
  obtain ⟨-, hh⟩ := (live_iff s).1 h
  obtain hp | hp := corePh_of_live h
  · simp [State.enabledAgents, hh, hp]
  · simp [State.enabledAgents, hh, hp, eq_comm]

/-- An enabled agent has a next operation (R82, R83). -/
theorem nextOp_of_mem_enabledAgents {s : State} (h : s.live = true) {a : Agent} (ha : a ∈ s.enabledAgents) :
    ∃ i, s.nextOp a = some i := by
  obtain ⟨hb, hh⟩ := (live_iff s).1 h
  obtain ⟨hs, -⟩ := (halted_eq_false_iff s).1 hh
  obtain ⟨⟨-, -, -, hw⟩, -⟩ := (isBuild_iff s).1 hb
  obtain ⟨hp, rfl⟩ | ⟨hr, k, hk, rfl⟩ := (mem_enabledAgents_iff h a).1 ha
  · exact ⟨.check, by simp [State.nextOp, hp, hs]⟩
  · have hlane : (BitVec.ofNat 4 k).toNat = k := Nat.mod_eq_of_lt (by omega)
    exact ⟨_, nextOp_lane_of_run hr hs (hlane.symm ▸ hk)⟩

/-- Every choice of the scheduler names an enabled agent (log entry 5). -/
theorem turnAgent_mem_enabledAgents {s : State} (h : s.live = true) (n : Nat) :
    s.turnAgent n ∈ s.enabledAgents := by
  obtain ⟨⟨-, -, hw, -⟩, -⟩ := (isBuild_iff s).1 ((live_iff s).1 h).1
  rw [mem_enabledAgents_iff h]
  obtain hp | hr := corePh_of_live h
  · exact .inl ⟨hp, by simp [State.turnAgent, hp]⟩
  · exact .inr ⟨hr, n % s.cfg.w, Nat.mod_lt n hw, by simp [State.turnAgent, hr]⟩

/-- Every enabled agent is named by some choice (log entry 5). -/
theorem exists_turnAgent_eq {s : State} (h : s.live = true) {a : Agent} (ha : a ∈ s.enabledAgents) :
    ∃ n, s.turnAgent n = a := by
  obtain ⟨hp, rfl⟩ | ⟨hr, k, hk, rfl⟩ := (mem_enabledAgents_iff h a).1 ha
  · exact ⟨0, by simp [State.turnAgent, hp]⟩
  · exact ⟨k, by simp [State.turnAgent, hr, Nat.mod_eq_of_lt hk]⟩

/-- The agents and their next operations do not depend on the events from outside. -/
theorem takeTurn_of_nextOp {s : State} {n m : Nat} {inp : List Input} {i : Instr}
    (h : s.nextOp (s.turnAgent n) = some i) :
    takeTurn n { s with inputs := inp, turns := m } = exec i { s with inputs := inp, turns := m } := by
  have h : ({ s with inputs := inp, turns := m } : State).nextOp
      (({ s with inputs := inp, turns := m } : State).turnAgent n) = some i := h
  rw [takeTurn, h]

theorem step_of_no_input {s : State} (h : s.live = true) (hin : s.inputs = []) :
    step s = takeTurn (Config.freeTurn s.turns) { s with turns := s.turns + 1 } := by
  obtain ⟨hb, hh⟩ := (live_iff s).1 h
  simp [step, advance, takeInput, hb, hh, hin]

theorem step_of_turn {s : State} {n : Nat} {rest : List Input} (h : s.live = true) (hin : s.inputs = .turn n :: rest) :
    step s = takeTurn n { s with inputs := rest } := by
  obtain ⟨hb, hh⟩ := (live_iff s).1 h
  simp [step, advance, takeInput, hb, hh, hin]

/-- Settles O31: choices name enabled agents, each of them by some choice, and an enabled agent has a next operation. -/
theorem autonomousStepIsAnyEnabledAgent : Obligations.AutonomousStepIsAnyEnabledAgent := by
  intro s h
  have hturn (n : Nat) : ∃ i, s.nextOp (s.turnAgent n) = some i :=
    nextOp_of_mem_enabledAgents h (turnAgent_mem_enabledAgents h n)
  refine ⟨fun hin => ?_, fun n rest hin => ?_, fun a ha rest => ?_⟩
  · obtain ⟨i, hi⟩ := hturn (Config.freeTurn s.turns)
    exact ⟨_, turnAgent_mem_enabledAgents h _, i, hi, (step_of_no_input h hin).trans (takeTurn_of_nextOp hi)⟩
  · obtain ⟨i, hi⟩ := hturn n
    exact ⟨_, turnAgent_mem_enabledAgents h n, i, hi, (step_of_turn h hin).trans (takeTurn_of_nextOp hi)⟩
  · obtain ⟨n, rfl⟩ := exists_turnAgent_eq h ha
    obtain ⟨i, hi⟩ := hturn n
    have hstep : step { s with inputs := .turn n :: rest } = takeTurn n { s with inputs := rest } :=
      step_of_turn (s := { s with inputs := .turn n :: rest }) h rfl
    exact ⟨n, i, hi, hstep.trans (takeTurn_of_nextOp hi)⟩

/-! ### A halted block (R100) -/

theorem exec_of_halted {s : State} (hb : s.isBuild = true) (hh : s.halted = true) (i : Instr) :
    exec i s = .fault s.haltReason := by
  obtain ⟨body, hi⟩ := exec_eq_operate i s
  rw [hi]
  simp [operate, hb, hh]

/-- Only a RESET is looked for among the events presented to a halted block (log entry 7). -/
theorem pendingReset_eq_none {ins : List Input} (h : ∀ v, Input.reset v ∉ ins) : pendingReset ins = none := by
  induction ins with
  | nil => rfl
  | cons e ins ih =>
    have hrest : pendingReset ins = none := ih fun v hv => h v (List.mem_cons_of_mem _ hv)
    cases e with
    | word w => exact hrest
    | turn n => exact hrest
    | reset v => exact absurd List.mem_cons_self (h v)
    | stop => exact hrest

theorem step_of_halted {s : State} (hb : s.isBuild = true) (hh : s.halted = true)
    (hin : ∀ v, Input.reset v ∉ s.inputs) : step s = .fault s.haltReason := by
  simp [step, advance, awaitReset, hb, hh, pendingReset_eq_none hin]

/-- Settles O34: FATAL halts the block, for the reason `halted` unless STOP had ended the run. -/
theorem haltedBlockHasNoStep : Obligations.HaltedBlockHasNoStep := by
  intro s hb hs hp
  have hh : s.halted = true := by simp [State.halted, hp]
  have hreason : s.haltReason = .halted := by simp [State.haltReason, hs]
  rw [← hreason]
  exact ⟨exec_of_halted hb hh, step_of_halted hb hh⟩

/-! ### CHECK comes first (R82, R99) -/

/-- Of a block that runs the invariant says only that its check has passed. -/
theorem checkFirst_of_run {s : State} (hr : s.corePh = .run) (hw : s.wEnv = s.cfg.w) : s.checkFirst := by
  simp [State.checkFirst, hr, hw]

/-- Of the faults, only CHECK's own says that no lane has done anything. -/
theorem raise_checkFirst {s : State} {c : FaultCause} (hc : c = .cfgMismatch → s.lanesUntouched) (op : OpWord)
    (wenv : Option Nat) : (s.raise c op wenv).checkFirst := by
  refine ⟨fun h => (nomatch h), fun h => (nomatch h), fun _ hcause => ?_⟩
  cases c with
  | cfgMismatch => exact hc rfl
  | illegalOp => cases hcause
  | badLane => cases hcause
  | outOfSequence => cases hcause

theorem exec_keeps_checkFirst (i : Instr) (s t : State) (hs : s.checkFirst) (h : exec i s = .next t) :
    t.checkFirst := by
  obtain ⟨hpassed, huntouched, -⟩ := hs
  obtain ⟨-, hcheck | hseed | hstep | hreport | hmismatch | hfault⟩ := exec_next h
  · obtain ⟨-, -, hw, rfl⟩ := hcheck
    exact checkFirst_of_run rfl hw
  · obtain ⟨k, -, -, hr, -, rfl⟩ := hseed
    exact checkFirst_of_run hr (hpassed hr)
  · obtain ⟨k, -, -, hr, -, -, rfl⟩ := hstep
    exact checkFirst_of_run hr (hpassed hr)
  · obtain ⟨k, -, -, hr, -, -, rfl⟩ := hreport
    exact checkFirst_of_run hr (hpassed hr)
  · obtain ⟨-, hp, -, rfl⟩ := hmismatch
    exact raise_checkFirst (fun _ => huntouched hp) _ _
  · obtain ⟨c, rfl, hc⟩ := hfault
    refine raise_checkFirst (fun hmismatch => ?_) _ _
    obtain ⟨rfl, -⟩ | ⟨rfl, -⟩ := hc <;> cases hmismatch

/-- Settles O41: before CHECK has passed no operation of a lane is performed, and CHECK itself touches no lane. -/
theorem stepKeepsCheckFirst : Obligations.StepKeepsCheckFirst := fun _ _ hs h =>
  step_keeps resetRun_checkFirst (fun _ _ _ _ hs => hs) exec_keeps_checkFirst
    (fun _ _ w hc _ => raise_checkFirst (fun hmismatch => absurd hmismatch hc) w none) hs h

end Sys2Proof.Machine
end

section
/-! PROOFS. Faults and events (60_exceptions.md): which fault a word reports (R103), what an operation that raises one
leaves (R98, R99), that autonomous operation raises none but CHECK's (R96), and what STOP does (R105). -/

namespace Sys2Proof.Machine

open Sys2Proof

/-! ### The one fault of a word (R103) -/

theorem performWord_of_badLane {s : State} {w : OpWord} (hl : s.live = true) (h : decode s.cfg w = .badLane w) :
    performWord w s = .next (s.afterFault 3 w none) := by
  simp [performWord, h, operate_live hl, raise_eq_afterFault, FaultCause.code]

/-- Settles O26: a missing lane is the decoder's to report, before any guard is asked; CHECK asks its guard before it
compares `W_ENV`. -/
theorem faultPriority : Obligations.FaultPriority := by
  refine ⟨fun s w rest hl hin hlow hhigh hlane => ?_, fun s rest hl hin hr => ?_⟩
  · obtain ⟨-, -, hbadLane, -⟩ := decodingFollowsItsTests s.cfg w
    have hd : decode s.cfg w = .badLane w := hbadLane (by omega)
    rw [step_eq_performWord hl hin]
    exact performWord_of_badLane (s := { s with inputs := rest }) hl hd
  · have hd : decode s.cfg 0x00 = .instr .check := decode_encode_of_wellFormed (i := .check) rfl
    have hg : s.guard .check = false := by simp [State.guard, hr]
    rw [stepPerformsTheWord s 0x00 rest .check hl hin hd]
    exact execCheck_of_guard_fails (s := { s with inputs := rest }) hl hg

/-! ### Faults are precise (R98, R99) -/

/-- The cause codes of R96 are 1 to 4. -/
theorem faultCause_code_bounds (c : FaultCause) : 1 ≤ c.code.toNat ∧ c.code.toNat ≤ 4 := by
  cases c <;> decide

/-- All that an operation can have done which leaves the block FATAL: the fault action at the state it found, with
`W_ENV` recorded for CHECK's own fault alone. -/
theorem exec_fatal {i : Instr} {s t : State} (h : exec i s = .next t) (hf : t.corePh = .fatal) :
    ∃ c, t = s.raise c (encode i) (if c.code = 1 then some s.wEnv else none) ∧
      (c.code = 1 → i = .check ∧ s.corePh = .unchecked ∧ s.wEnv ≠ s.cfg.w) := by
  obtain ⟨-, hcheck | hseed | hstep | hreport | hmismatch | hfault⟩ := exec_next h
  · obtain ⟨-, -, -, rfl⟩ := hcheck
    cases hf
  · obtain ⟨k, -, -, hr, -, rfl⟩ := hseed
    cases hr.symm.trans hf
  · obtain ⟨k, -, -, hr, -, -, rfl⟩ := hstep
    cases hr.symm.trans hf
  · obtain ⟨k, -, -, hr, -, -, rfl⟩ := hreport
    cases hr.symm.trans hf
  · obtain ⟨rfl, hp, hw, rfl⟩ := hmismatch
    exact ⟨.cfgMismatch, rfl, fun _ => ⟨rfl, hp, hw⟩⟩
  · obtain ⟨c, rfl, ⟨rfl, -⟩ | ⟨rfl, -⟩⟩ := hfault
    · exact ⟨.badLane, rfl, fun hc => by cases hc⟩
    · exact ⟨.outOfSequence, rfl, fun hc => by cases hc⟩

/-- Settles O27: the fault action writes neither lanes nor OUT, and the code it records is that of a cause. -/
theorem faultsArePrecise : Obligations.FaultsArePrecise := by
  intro i s t h hf
  obtain ⟨c, rfl, hcheck⟩ := exec_fatal h hf
  obtain ⟨hlow, hhigh⟩ := faultCause_code_bounds c
  exact ⟨rfl, rfl, hlow, hhigh, hcheck, raise_eq_afterFault s c _ _⟩

/-! ### Autonomous operation (R83, R96, R119) -/

/-- The controller's next operation is CHECK, while UNCHECKED (R82). -/
theorem nextOp_controller_eq_some {s : State} {i : Instr} (h : s.nextOp .controller = some i) :
    i = .check ∧ s.corePh = .unchecked := by
  simp only [State.nextOp, Option.ite_none_right_eq_some, Bool.and_eq_true, beq_iff_eq] at h
  obtain ⟨⟨hp, -⟩, hi⟩ := h
  exact ⟨(Option.some.inj hi).symm, hp⟩

/-- A lane's next operation is its sequencer's, while RUN, for a lane of the build (R83). -/
theorem nextOp_lane_eq_some {s : State} {k : LaneIdx} {i : Instr} (h : s.nextOp (.lane k) = some i) :
    i = s.nextLaneOp k ∧ s.corePh = .run ∧ k.toNat < s.cfg.w := by
  simp only [State.nextOp, Option.ite_none_right_eq_some, Bool.and_eq_true, beq_iff_eq, decide_eq_true_eq] at h
  obtain ⟨⟨⟨hr, -⟩, hk⟩, hi⟩ := h
  exact ⟨(Option.some.inj hi).symm, hr, hk⟩

/-- What a lane's sequencer gives is performed without a fault: `BPOS` is in its range (R20), so the guard holds (R83). -/
theorem canPerform_of_nextOp_lane {s : State} (hs : s.wf = true) (hl : s.live = true) {k : LaneIdx} {i : Instr}
    (h : s.nextOp (.lane k) = some i) : s.CanPerform i k := by
  obtain ⟨hi, hr, hk⟩ := nextOp_lane_eq_some h
  obtain ⟨-, hb⟩ := (lane_wf_iff _ _).1 (lane_wf_of_state_wf hs hk)
  obtain ⟨ha, hg⟩ := (agent_and_guard_iff hr hb i).2 hi
  exact ⟨ha, hl, hk, hr, hg⟩

/-- CHECK in its turn completes, into RUN or by its own fault. -/
theorem execCheck_of_unchecked {s : State} (hl : s.live = true) (hp : s.corePh = .unchecked) :
    ∃ t, exec .check s = .next t ∧ (t.corePh = .fatal → s.wEnv ≠ s.cfg.w ∧ t.faultCause = 1) := by
  by_cases hw : s.wEnv = s.cfg.w
  · exact ⟨_, execCheck_of_match hl hp hw, fun hf => by cases hf⟩
  · exact ⟨_, execCheck_of_mismatch hl hp hw, fun _ => ⟨hw, rfl⟩⟩

/-- The next operation of an agent completes, a running block keeps running, and the only fault is CHECK's. -/
theorem exec_of_nextOp {s : State} (hs : s.wf = true) (hl : s.live = true) {a : Agent} {i : Instr}
    (h : s.nextOp a = some i) :
    ∃ t, exec i s = .next t ∧ (s.corePh = .run → t.corePh = .run) ∧
      (t.corePh = .fatal → s.corePh = .unchecked ∧ s.wEnv ≠ s.cfg.w ∧ t.faultCause = 1) := by
  cases a with
  | controller =>
    obtain ⟨rfl, hp⟩ := nextOp_controller_eq_some h
    obtain ⟨t, ht, hf⟩ := execCheck_of_unchecked hl hp
    exact ⟨t, ht, fun hr => (nomatch hp.symm.trans hr), fun hfatal => ⟨hp, hf hfatal⟩⟩
  | lane k =>
    have hcan := canPerform_of_nextOp_lane hs hl h
    exact ⟨_, exec_of_canPerform hcan, id, fun hf => (nomatch hcan.run.symm.trans hf)⟩

/-- Settles O33: an autonomous step performs the next operation of an agent, and neither taking the choice nor drawing
one changes what that operation finds. -/
theorem autonomousOperationNeverFaultsInRun : Obligations.AutonomousOperationNeverFaultsInRun := by
  intro s hs hh hin
  obtain ⟨hb, -⟩ := (state_wf_iff s).1 hs
  have hl : s.live = true := (live_iff s).2 ⟨hb, hh⟩
  obtain ⟨hfree, hchosen, -⟩ := autonomousStepIsAnyEnabledAgent s hl
  obtain hin | ⟨n, rest, hin⟩ := hin
  · obtain ⟨a, -, i, hi, hstep⟩ := hfree hin
    rw [hstep]
    exact exec_of_nextOp (s := { s with turns := s.turns + 1 }) hs hl hi
  · obtain ⟨a, -, i, hi, hstep⟩ := hchosen n rest hin
    rw [hstep]
    exact exec_of_nextOp (s := { s with inputs := rest }) hs hl hi

/-! ### STOP (R105) -/

theorem step_of_stop {s : State} {rest : List Input} (hl : s.live = true) (hin : s.inputs = .stop :: rest) :
    step s = .next { s with inputs := rest, stopped := true } := by
  obtain ⟨hb, hh⟩ := (live_iff s).1 hl
  simp [step, advance, takeInput, hb, hh, hin]

/-- Settles O35: STOP sets its bit, and a block with that bit set is halted for the reason `stopped`. -/
theorem stopEndsTheRun : Obligations.StopEndsTheRun := by
  intro s rest hl hin
  obtain ⟨hb, -⟩ := (live_iff s).1 hl
  exact ⟨_, step_of_stop hl hin, rfl, exec_of_halted (s := { s with inputs := rest, stopped := true }) hb rfl,
    step_of_halted (s := { s with inputs := rest, stopped := true }) hb rfl⟩

end Sys2Proof.Machine
end

section
/-! PROOFS. Reset (70_reset_and_hazards.md): a RESET presented next is taken whether the block is running, halted or
stopped, and starts a new run (R112, R113). -/

namespace Sys2Proof.Machine

open Sys2Proof

/-! ### A RESET presented next (R112) -/

/-- To a halted block, the RESET presented next is the one it waits for. -/
theorem awaitReset_of_reset {s : State} {v : Nat} {rest : List Input} (hin : s.inputs = .reset v :: rest) :
    awaitReset s = .next (s.resetRun v rest) := by
  simp [awaitReset, pendingReset, hin]

/-- To a running block, RESET is the event it takes next. -/
theorem takeInput_of_reset {s : State} {v : Nat} {rest : List Input} (hin : s.inputs = .reset v :: rest) :
    takeInput s = .next (s.resetRun v rest) := by
  simp [takeInput, hin]

theorem step_of_reset {s : State} {v : Nat} {rest : List Input} (hb : s.isBuild = true)
    (hin : s.inputs = .reset v :: rest) : step s = .next (s.resetRun v rest) := by
  cases hh : s.halted with
  | true => simp [step, advance, hb, hh, awaitReset_of_reset hin]
  | false => simp [step, advance, hb, hh, takeInput_of_reset hin]

/-- Settles O36: the step is the RESET itself, and each register is read off the state a RESET leaves. -/
theorem resetStartsANewRun : Obligations.ResetStartsANewRun := by
  intro s v rest hb hin
  obtain ⟨hinit, hout⟩ := resetRun_lanesUntouched s v rest
  have hlanes : (s.resetRun v rest).lanes.length = s.cfg.w := by rw [resetRun_lanes, List.length_replicate]
  exact ⟨s.resetRun v rest, step_of_reset hb hin, resetRun_cfg s v rest, resetRun_wEnv s v rest,
    resetRun_corePh s v rest, resetRun_faultCause s v rest, resetRun_faultOp s v rest, hlanes, hinit, hout,
    resetRun_diag s v rest, resetRun_stopped s v rest, resetRun_inputs s v rest⟩

end Sys2Proof.Machine
end
